-- ==== Sys2Proof/Word.lean ====
section
/-! DEFINITION. The two word types of the block (00_scope.md R5, R9): u8 and u16. Plain `+` and `-` on them reduce modulo 256
and modulo 65536, which is the `+8`, `-8`, `+16`, `-16` of R9. -/

namespace Sys2Proof

/-- A u8: the addressable unit and the width of A, X, Y and S (R5). -/
abbrev Byte := BitVec 8

/-- A u16: an address, and the width of PC (R5). -/
abbrev Word := BitVec 16

end Sys2Proof
end

