-- ==== Sys2Proof/Config.lean ====
section
/-! DEFINITION. What is fixed for the machine: the vectors (R5, R247), and the values the model names where the spec leaves one
open (the `PowerOn` draw of R6 and R38, the initial memory content of R52), and the form of the open parameter `CycleTable` (R6,
R283) with its default. The spec leaves no result of an instruction open, so there is no free value here. -/

namespace Sys2Proof.Config

/-- The NMI vector's low byte is at $FFFA (R247). -/
def nmiVector : Word := 0xFFFA#16

/-- The RESET vector's low byte is at $FFFC (R247). -/
def resetVector : Word := 0xFFFC#16

/-- The vector shared by IRQ and BRK has its low byte at $FFFE (R247). -/
def irqVector : Word := 0xFFFE#16

/-- DESIGN CHOICE, unsafe (notes/assumptions/2.md): a byte of memory that nothing has written reads $00. -/
def unlistedByte : Byte := 0x00#8

/-- DESIGN CHOICE, unsafe (notes/assumptions/1.md): A, X and Y at power-on. -/
def powerOnIndex : Byte := 0x00#8

/-- DESIGN CHOICE, unsafe (notes/assumptions/1.md): S at power-on. -/
def powerOnStack : Byte := 0xFF#8

/-- DESIGN CHOICE, unsafe (notes/assumptions/1.md): each flag but I at power-on. -/
def powerOnFlag : Bool := false

end Sys2Proof.Config

namespace Sys2Proof

/-- The timing parts of a descriptor (R84, R283): base cycle count and page-cross penalty flag. -/
structure Timing where
  base : Nat
  penalty : Bool
deriving DecidableEq, Repr

/-- The open parameter `CycleTable` (R6, R283, D18), as plain data: the opcode bytes whose timing differs from the default of
R284, with the timing they have, and the cycles of an IRQ or NMI entry and of a RESET sequence. An opcode byte that is not
listed has its default timing, so that every table is one of these. -/
structure CycleTable where
  replaced : List (Byte × Timing)
  interruptEntry : Nat
  resetSequence : Nat
deriving DecidableEq, Repr

/-- The default table (R284, D18; notes/assumptions/8.md). -/
def Config.defaultCycleTable : CycleTable where
  replaced := []
  interruptEntry := 7
  resetSequence := 7

end Sys2Proof
end

