-- ==== Sys2Proof/Syntax.lean ====
section
/-! DEFINITION. The instructions of the block as syntax (30_encoding.md R81, R82, R86): the thirteen formats, the 56
operations, the operand shapes, and Instr with one constructor for each of the 151 rows of spec/opcode_table.json. -/

namespace Sys2Proof

/-- The thirteen formats, one per addressing-mode resolver (R81). -/
inductive Format where
  | imp | acc | imm | zp | zpx | zpy | abs | abx | aby | ind | izx | izy | rel
deriving DecidableEq, Repr

/-- Operand bytes of a format: the table of R81. -/
def Format.operandBytes : Format → Nat
  | .imp | .acc => 0
  | .imm | .zp | .zpx | .zpy | .izx | .izy | .rel => 1
  | .abs | .abx | .aby | .ind => 2

/-- Length of an instruction of a format, 1 + its operand bytes (R81). -/
def Format.length (f : Format) : Nat := 1 + f.operandBytes

/-- The 56 operations (R1, R86). -/
inductive Operation where
  | adc | and | asl | bcc | bcs | beq | bit | bmi | bne | bpl | brk | bvc | bvs | clc
  | cld | cli | clv | cmp | cpx | cpy | dec | dex | dey | eor | inc | inx | iny | jmp
  | jsr | lda | ldx | ldy | lsr | nop | ora | pha | php | pla | plp | rol | ror | rti
  | rts | sbc | sec | sed | sei | sta | stx | sty | tax | tay | tsx | txa | txs | tya
deriving DecidableEq, Repr

/-- Operands that a resolver turns into an effective address (R105 to R114), with their operand bytes as assembled by
R83. For JMP, JSR and the branches the address is the target. -/
inductive MemOperand where
  | zp (zp8 : Byte)
  | zpx (zp8 : Byte)
  | zpy (zp8 : Byte)
  | abs (addr : Word)
  | abx (addr : Word)
  | aby (addr : Word)
  | ind (ptr : Word)
  | izx (zp8 : Byte)
  | izy (zp8 : Byte)
  | rel (rel8 : Byte)
deriving DecidableEq, Repr

/-- Where an operation that reads its operand takes it from: the immediate byte or a byte of memory (R83, R101). -/
inductive Source where
  | imm (imm8 : Byte)
  | mem (m : MemOperand)
deriving DecidableEq, Repr

/-- A readable and writable place: the accumulator or a byte of memory (R101, R103). -/
inductive Place where
  | acc
  | mem (m : MemOperand)
deriving DecidableEq, Repr

/-- The operand of an instruction, whatever its format. -/
inductive Operand where
  | imp
  | acc
  | imm (imm8 : Byte)
  | mem (m : MemOperand)
deriving DecidableEq, Repr

/-- A source seen as an operand. -/
def Source.operand : Source → Operand
  | .imm v => .imm v
  | .mem m => .mem m

/-- A place seen as an operand. -/
def Place.operand : Place → Operand
  | .acc => .acc
  | .mem m => .mem m

/-- The format of a memory operand. -/
def MemOperand.format : MemOperand → Format
  | .zp _ => .zp
  | .zpx _ => .zpx
  | .zpy _ => .zpy
  | .abs _ => .abs
  | .abx _ => .abx
  | .aby _ => .aby
  | .ind _ => .ind
  | .izx _ => .izx
  | .izy _ => .izy
  | .rel _ => .rel

/-- The format of an operand. -/
def Operand.format : Operand → Format
  | .imp => .imp
  | .acc => .acc
  | .imm _ => .imm
  | .mem m => m.format

/-- The instructions: one constructor for each row of spec/opcode_table.json (R86), its operand field as an argument. -/
inductive Instr where
  | ldaImm (imm8 : Byte)
  | ldaZp (zp8 : Byte)
  | ldaZpx (zp8 : Byte)
  | ldaAbs (addr : Word)
  | ldaAbx (addr : Word)
  | ldaAby (addr : Word)
  | ldaIzx (zp8 : Byte)
  | ldaIzy (zp8 : Byte)
  | ldxImm (imm8 : Byte)
  | ldxZp (zp8 : Byte)
  | ldxZpy (zp8 : Byte)
  | ldxAbs (addr : Word)
  | ldxAby (addr : Word)
  | ldyImm (imm8 : Byte)
  | ldyZp (zp8 : Byte)
  | ldyZpx (zp8 : Byte)
  | ldyAbs (addr : Word)
  | ldyAbx (addr : Word)
  | staZp (zp8 : Byte)
  | staZpx (zp8 : Byte)
  | staAbs (addr : Word)
  | staAbx (addr : Word)
  | staAby (addr : Word)
  | staIzx (zp8 : Byte)
  | staIzy (zp8 : Byte)
  | stxZp (zp8 : Byte)
  | stxZpy (zp8 : Byte)
  | stxAbs (addr : Word)
  | styZp (zp8 : Byte)
  | styZpx (zp8 : Byte)
  | styAbs (addr : Word)
  | tax
  | tay
  | txa
  | tya
  | tsx
  | txs
  | andImm (imm8 : Byte)
  | andZp (zp8 : Byte)
  | andZpx (zp8 : Byte)
  | andAbs (addr : Word)
  | andAbx (addr : Word)
  | andAby (addr : Word)
  | andIzx (zp8 : Byte)
  | andIzy (zp8 : Byte)
  | oraImm (imm8 : Byte)
  | oraZp (zp8 : Byte)
  | oraZpx (zp8 : Byte)
  | oraAbs (addr : Word)
  | oraAbx (addr : Word)
  | oraAby (addr : Word)
  | oraIzx (zp8 : Byte)
  | oraIzy (zp8 : Byte)
  | eorImm (imm8 : Byte)
  | eorZp (zp8 : Byte)
  | eorZpx (zp8 : Byte)
  | eorAbs (addr : Word)
  | eorAbx (addr : Word)
  | eorAby (addr : Word)
  | eorIzx (zp8 : Byte)
  | eorIzy (zp8 : Byte)
  | bitZp (zp8 : Byte)
  | bitAbs (addr : Word)
  | incZp (zp8 : Byte)
  | incZpx (zp8 : Byte)
  | incAbs (addr : Word)
  | incAbx (addr : Word)
  | decZp (zp8 : Byte)
  | decZpx (zp8 : Byte)
  | decAbs (addr : Word)
  | decAbx (addr : Word)
  | inx
  | iny
  | dex
  | dey
  | adcImm (imm8 : Byte)
  | adcZp (zp8 : Byte)
  | adcZpx (zp8 : Byte)
  | adcAbs (addr : Word)
  | adcAbx (addr : Word)
  | adcAby (addr : Word)
  | adcIzx (zp8 : Byte)
  | adcIzy (zp8 : Byte)
  | sbcImm (imm8 : Byte)
  | sbcZp (zp8 : Byte)
  | sbcZpx (zp8 : Byte)
  | sbcAbs (addr : Word)
  | sbcAbx (addr : Word)
  | sbcAby (addr : Word)
  | sbcIzx (zp8 : Byte)
  | sbcIzy (zp8 : Byte)
  | aslAcc
  | aslZp (zp8 : Byte)
  | aslZpx (zp8 : Byte)
  | aslAbs (addr : Word)
  | aslAbx (addr : Word)
  | lsrAcc
  | lsrZp (zp8 : Byte)
  | lsrZpx (zp8 : Byte)
  | lsrAbs (addr : Word)
  | lsrAbx (addr : Word)
  | rolAcc
  | rolZp (zp8 : Byte)
  | rolZpx (zp8 : Byte)
  | rolAbs (addr : Word)
  | rolAbx (addr : Word)
  | rorAcc
  | rorZp (zp8 : Byte)
  | rorZpx (zp8 : Byte)
  | rorAbs (addr : Word)
  | rorAbx (addr : Word)
  | cmpImm (imm8 : Byte)
  | cmpZp (zp8 : Byte)
  | cmpZpx (zp8 : Byte)
  | cmpAbs (addr : Word)
  | cmpAbx (addr : Word)
  | cmpAby (addr : Word)
  | cmpIzx (zp8 : Byte)
  | cmpIzy (zp8 : Byte)
  | cpxImm (imm8 : Byte)
  | cpxZp (zp8 : Byte)
  | cpxAbs (addr : Word)
  | cpyImm (imm8 : Byte)
  | cpyZp (zp8 : Byte)
  | cpyAbs (addr : Word)
  | bcc (rel8 : Byte)
  | bcs (rel8 : Byte)
  | beq (rel8 : Byte)
  | bne (rel8 : Byte)
  | bmi (rel8 : Byte)
  | bpl (rel8 : Byte)
  | bvc (rel8 : Byte)
  | bvs (rel8 : Byte)
  | jmpAbs (addr : Word)
  | jmpInd (ptr : Word)
  | jsr (addr : Word)
  | rts
  | pha
  | php
  | pla
  | plp
  | brk
  | rti
  | clc
  | cld
  | cli
  | clv
  | sec
  | sed
  | sei
  | nop
deriving DecidableEq, Repr

/-- The operation of an instruction: the first part of its row in R86. -/
def Instr.operation : Instr → Operation
  | .ldaImm _ => .lda
  | .ldaZp _ => .lda
  | .ldaZpx _ => .lda
  | .ldaAbs _ => .lda
  | .ldaAbx _ => .lda
  | .ldaAby _ => .lda
  | .ldaIzx _ => .lda
  | .ldaIzy _ => .lda
  | .ldxImm _ => .ldx
  | .ldxZp _ => .ldx
  | .ldxZpy _ => .ldx
  | .ldxAbs _ => .ldx
  | .ldxAby _ => .ldx
  | .ldyImm _ => .ldy
  | .ldyZp _ => .ldy
  | .ldyZpx _ => .ldy
  | .ldyAbs _ => .ldy
  | .ldyAbx _ => .ldy
  | .staZp _ => .sta
  | .staZpx _ => .sta
  | .staAbs _ => .sta
  | .staAbx _ => .sta
  | .staAby _ => .sta
  | .staIzx _ => .sta
  | .staIzy _ => .sta
  | .stxZp _ => .stx
  | .stxZpy _ => .stx
  | .stxAbs _ => .stx
  | .styZp _ => .sty
  | .styZpx _ => .sty
  | .styAbs _ => .sty
  | .tax => .tax
  | .tay => .tay
  | .txa => .txa
  | .tya => .tya
  | .tsx => .tsx
  | .txs => .txs
  | .andImm _ => .and
  | .andZp _ => .and
  | .andZpx _ => .and
  | .andAbs _ => .and
  | .andAbx _ => .and
  | .andAby _ => .and
  | .andIzx _ => .and
  | .andIzy _ => .and
  | .oraImm _ => .ora
  | .oraZp _ => .ora
  | .oraZpx _ => .ora
  | .oraAbs _ => .ora
  | .oraAbx _ => .ora
  | .oraAby _ => .ora
  | .oraIzx _ => .ora
  | .oraIzy _ => .ora
  | .eorImm _ => .eor
  | .eorZp _ => .eor
  | .eorZpx _ => .eor
  | .eorAbs _ => .eor
  | .eorAbx _ => .eor
  | .eorAby _ => .eor
  | .eorIzx _ => .eor
  | .eorIzy _ => .eor
  | .bitZp _ => .bit
  | .bitAbs _ => .bit
  | .incZp _ => .inc
  | .incZpx _ => .inc
  | .incAbs _ => .inc
  | .incAbx _ => .inc
  | .decZp _ => .dec
  | .decZpx _ => .dec
  | .decAbs _ => .dec
  | .decAbx _ => .dec
  | .inx => .inx
  | .iny => .iny
  | .dex => .dex
  | .dey => .dey
  | .adcImm _ => .adc
  | .adcZp _ => .adc
  | .adcZpx _ => .adc
  | .adcAbs _ => .adc
  | .adcAbx _ => .adc
  | .adcAby _ => .adc
  | .adcIzx _ => .adc
  | .adcIzy _ => .adc
  | .sbcImm _ => .sbc
  | .sbcZp _ => .sbc
  | .sbcZpx _ => .sbc
  | .sbcAbs _ => .sbc
  | .sbcAbx _ => .sbc
  | .sbcAby _ => .sbc
  | .sbcIzx _ => .sbc
  | .sbcIzy _ => .sbc
  | .aslAcc => .asl
  | .aslZp _ => .asl
  | .aslZpx _ => .asl
  | .aslAbs _ => .asl
  | .aslAbx _ => .asl
  | .lsrAcc => .lsr
  | .lsrZp _ => .lsr
  | .lsrZpx _ => .lsr
  | .lsrAbs _ => .lsr
  | .lsrAbx _ => .lsr
  | .rolAcc => .rol
  | .rolZp _ => .rol
  | .rolZpx _ => .rol
  | .rolAbs _ => .rol
  | .rolAbx _ => .rol
  | .rorAcc => .ror
  | .rorZp _ => .ror
  | .rorZpx _ => .ror
  | .rorAbs _ => .ror
  | .rorAbx _ => .ror
  | .cmpImm _ => .cmp
  | .cmpZp _ => .cmp
  | .cmpZpx _ => .cmp
  | .cmpAbs _ => .cmp
  | .cmpAbx _ => .cmp
  | .cmpAby _ => .cmp
  | .cmpIzx _ => .cmp
  | .cmpIzy _ => .cmp
  | .cpxImm _ => .cpx
  | .cpxZp _ => .cpx
  | .cpxAbs _ => .cpx
  | .cpyImm _ => .cpy
  | .cpyZp _ => .cpy
  | .cpyAbs _ => .cpy
  | .bcc _ => .bcc
  | .bcs _ => .bcs
  | .beq _ => .beq
  | .bne _ => .bne
  | .bmi _ => .bmi
  | .bpl _ => .bpl
  | .bvc _ => .bvc
  | .bvs _ => .bvs
  | .jmpAbs _ => .jmp
  | .jmpInd _ => .jmp
  | .jsr _ => .jsr
  | .rts => .rts
  | .pha => .pha
  | .php => .php
  | .pla => .pla
  | .plp => .plp
  | .brk => .brk
  | .rti => .rti
  | .clc => .clc
  | .cld => .cld
  | .cli => .cli
  | .clv => .clv
  | .sec => .sec
  | .sed => .sed
  | .sei => .sei
  | .nop => .nop

/-- The operand of an instruction: its format's field (R82, R86). -/
def Instr.operand : Instr → Operand
  | .ldaImm imm8 => .imm imm8
  | .ldaZp zp8 => .mem (.zp zp8)
  | .ldaZpx zp8 => .mem (.zpx zp8)
  | .ldaAbs addr => .mem (.abs addr)
  | .ldaAbx addr => .mem (.abx addr)
  | .ldaAby addr => .mem (.aby addr)
  | .ldaIzx zp8 => .mem (.izx zp8)
  | .ldaIzy zp8 => .mem (.izy zp8)
  | .ldxImm imm8 => .imm imm8
  | .ldxZp zp8 => .mem (.zp zp8)
  | .ldxZpy zp8 => .mem (.zpy zp8)
  | .ldxAbs addr => .mem (.abs addr)
  | .ldxAby addr => .mem (.aby addr)
  | .ldyImm imm8 => .imm imm8
  | .ldyZp zp8 => .mem (.zp zp8)
  | .ldyZpx zp8 => .mem (.zpx zp8)
  | .ldyAbs addr => .mem (.abs addr)
  | .ldyAbx addr => .mem (.abx addr)
  | .staZp zp8 => .mem (.zp zp8)
  | .staZpx zp8 => .mem (.zpx zp8)
  | .staAbs addr => .mem (.abs addr)
  | .staAbx addr => .mem (.abx addr)
  | .staAby addr => .mem (.aby addr)
  | .staIzx zp8 => .mem (.izx zp8)
  | .staIzy zp8 => .mem (.izy zp8)
  | .stxZp zp8 => .mem (.zp zp8)
  | .stxZpy zp8 => .mem (.zpy zp8)
  | .stxAbs addr => .mem (.abs addr)
  | .styZp zp8 => .mem (.zp zp8)
  | .styZpx zp8 => .mem (.zpx zp8)
  | .styAbs addr => .mem (.abs addr)
  | .tax => .imp
  | .tay => .imp
  | .txa => .imp
  | .tya => .imp
  | .tsx => .imp
  | .txs => .imp
  | .andImm imm8 => .imm imm8
  | .andZp zp8 => .mem (.zp zp8)
  | .andZpx zp8 => .mem (.zpx zp8)
  | .andAbs addr => .mem (.abs addr)
  | .andAbx addr => .mem (.abx addr)
  | .andAby addr => .mem (.aby addr)
  | .andIzx zp8 => .mem (.izx zp8)
  | .andIzy zp8 => .mem (.izy zp8)
  | .oraImm imm8 => .imm imm8
  | .oraZp zp8 => .mem (.zp zp8)
  | .oraZpx zp8 => .mem (.zpx zp8)
  | .oraAbs addr => .mem (.abs addr)
  | .oraAbx addr => .mem (.abx addr)
  | .oraAby addr => .mem (.aby addr)
  | .oraIzx zp8 => .mem (.izx zp8)
  | .oraIzy zp8 => .mem (.izy zp8)
  | .eorImm imm8 => .imm imm8
  | .eorZp zp8 => .mem (.zp zp8)
  | .eorZpx zp8 => .mem (.zpx zp8)
  | .eorAbs addr => .mem (.abs addr)
  | .eorAbx addr => .mem (.abx addr)
  | .eorAby addr => .mem (.aby addr)
  | .eorIzx zp8 => .mem (.izx zp8)
  | .eorIzy zp8 => .mem (.izy zp8)
  | .bitZp zp8 => .mem (.zp zp8)
  | .bitAbs addr => .mem (.abs addr)
  | .incZp zp8 => .mem (.zp zp8)
  | .incZpx zp8 => .mem (.zpx zp8)
  | .incAbs addr => .mem (.abs addr)
  | .incAbx addr => .mem (.abx addr)
  | .decZp zp8 => .mem (.zp zp8)
  | .decZpx zp8 => .mem (.zpx zp8)
  | .decAbs addr => .mem (.abs addr)
  | .decAbx addr => .mem (.abx addr)
  | .inx => .imp
  | .iny => .imp
  | .dex => .imp
  | .dey => .imp
  | .adcImm imm8 => .imm imm8
  | .adcZp zp8 => .mem (.zp zp8)
  | .adcZpx zp8 => .mem (.zpx zp8)
  | .adcAbs addr => .mem (.abs addr)
  | .adcAbx addr => .mem (.abx addr)
  | .adcAby addr => .mem (.aby addr)
  | .adcIzx zp8 => .mem (.izx zp8)
  | .adcIzy zp8 => .mem (.izy zp8)
  | .sbcImm imm8 => .imm imm8
  | .sbcZp zp8 => .mem (.zp zp8)
  | .sbcZpx zp8 => .mem (.zpx zp8)
  | .sbcAbs addr => .mem (.abs addr)
  | .sbcAbx addr => .mem (.abx addr)
  | .sbcAby addr => .mem (.aby addr)
  | .sbcIzx zp8 => .mem (.izx zp8)
  | .sbcIzy zp8 => .mem (.izy zp8)
  | .aslAcc => .acc
  | .aslZp zp8 => .mem (.zp zp8)
  | .aslZpx zp8 => .mem (.zpx zp8)
  | .aslAbs addr => .mem (.abs addr)
  | .aslAbx addr => .mem (.abx addr)
  | .lsrAcc => .acc
  | .lsrZp zp8 => .mem (.zp zp8)
  | .lsrZpx zp8 => .mem (.zpx zp8)
  | .lsrAbs addr => .mem (.abs addr)
  | .lsrAbx addr => .mem (.abx addr)
  | .rolAcc => .acc
  | .rolZp zp8 => .mem (.zp zp8)
  | .rolZpx zp8 => .mem (.zpx zp8)
  | .rolAbs addr => .mem (.abs addr)
  | .rolAbx addr => .mem (.abx addr)
  | .rorAcc => .acc
  | .rorZp zp8 => .mem (.zp zp8)
  | .rorZpx zp8 => .mem (.zpx zp8)
  | .rorAbs addr => .mem (.abs addr)
  | .rorAbx addr => .mem (.abx addr)
  | .cmpImm imm8 => .imm imm8
  | .cmpZp zp8 => .mem (.zp zp8)
  | .cmpZpx zp8 => .mem (.zpx zp8)
  | .cmpAbs addr => .mem (.abs addr)
  | .cmpAbx addr => .mem (.abx addr)
  | .cmpAby addr => .mem (.aby addr)
  | .cmpIzx zp8 => .mem (.izx zp8)
  | .cmpIzy zp8 => .mem (.izy zp8)
  | .cpxImm imm8 => .imm imm8
  | .cpxZp zp8 => .mem (.zp zp8)
  | .cpxAbs addr => .mem (.abs addr)
  | .cpyImm imm8 => .imm imm8
  | .cpyZp zp8 => .mem (.zp zp8)
  | .cpyAbs addr => .mem (.abs addr)
  | .bcc rel8 => .mem (.rel rel8)
  | .bcs rel8 => .mem (.rel rel8)
  | .beq rel8 => .mem (.rel rel8)
  | .bne rel8 => .mem (.rel rel8)
  | .bmi rel8 => .mem (.rel rel8)
  | .bpl rel8 => .mem (.rel rel8)
  | .bvc rel8 => .mem (.rel rel8)
  | .bvs rel8 => .mem (.rel rel8)
  | .jmpAbs addr => .mem (.abs addr)
  | .jmpInd ptr => .mem (.ind ptr)
  | .jsr addr => .mem (.abs addr)
  | .rts => .imp
  | .pha => .imp
  | .php => .imp
  | .pla => .imp
  | .plp => .imp
  | .brk => .imp
  | .rti => .imp
  | .clc => .imp
  | .cld => .imp
  | .cli => .imp
  | .clv => .imp
  | .sec => .imp
  | .sed => .imp
  | .sei => .imp
  | .nop => .imp

/-- The format of an instruction. -/
def Instr.format (i : Instr) : Format := i.operand.format

end Sys2Proof
end

