-- ==== Sys2Proof/WellFormed.lean ====
section
/-! DEFINITION. Which instructions exist: the (operation, format) pairs of 30_encoding.md R85 and R86. No operand value is
reserved or illegal (R89), so a pair that exists is well formed with every operand. -/

namespace Sys2Proof

/-- The formats each operation has: the row of R86. -/
def Operation.formats : Operation → List Format
  | .adc => [.imm, .zp, .zpx, .abs, .abx, .aby, .izx, .izy]
  | .and => [.imm, .zp, .zpx, .abs, .abx, .aby, .izx, .izy]
  | .asl => [.acc, .zp, .zpx, .abs, .abx]
  | .bcc => [.rel]
  | .bcs => [.rel]
  | .beq => [.rel]
  | .bit => [.zp, .abs]
  | .bmi => [.rel]
  | .bne => [.rel]
  | .bpl => [.rel]
  | .brk => [.imp]
  | .bvc => [.rel]
  | .bvs => [.rel]
  | .clc => [.imp]
  | .cld => [.imp]
  | .cli => [.imp]
  | .clv => [.imp]
  | .cmp => [.imm, .zp, .zpx, .abs, .abx, .aby, .izx, .izy]
  | .cpx => [.imm, .zp, .abs]
  | .cpy => [.imm, .zp, .abs]
  | .dec => [.zp, .zpx, .abs, .abx]
  | .dex => [.imp]
  | .dey => [.imp]
  | .eor => [.imm, .zp, .zpx, .abs, .abx, .aby, .izx, .izy]
  | .inc => [.zp, .zpx, .abs, .abx]
  | .inx => [.imp]
  | .iny => [.imp]
  | .jmp => [.abs, .ind]
  | .jsr => [.abs]
  | .lda => [.imm, .zp, .zpx, .abs, .abx, .aby, .izx, .izy]
  | .ldx => [.imm, .zp, .zpy, .abs, .aby]
  | .ldy => [.imm, .zp, .zpx, .abs, .abx]
  | .lsr => [.acc, .zp, .zpx, .abs, .abx]
  | .nop => [.imp]
  | .ora => [.imm, .zp, .zpx, .abs, .abx, .aby, .izx, .izy]
  | .pha => [.imp]
  | .php => [.imp]
  | .pla => [.imp]
  | .plp => [.imp]
  | .rol => [.acc, .zp, .zpx, .abs, .abx]
  | .ror => [.acc, .zp, .zpx, .abs, .abx]
  | .rti => [.imp]
  | .rts => [.imp]
  | .sbc => [.imm, .zp, .zpx, .abs, .abx, .aby, .izx, .izy]
  | .sec => [.imp]
  | .sed => [.imp]
  | .sei => [.imp]
  | .sta => [.zp, .zpx, .abs, .abx, .aby, .izx, .izy]
  | .stx => [.zp, .zpy, .abs]
  | .sty => [.zp, .zpx, .abs]
  | .tax => [.imp]
  | .tay => [.imp]
  | .tsx => [.imp]
  | .txa => [.imp]
  | .txs => [.imp]
  | .tya => [.imp]

/-- The operation and addressing-mode parts of a descriptor (R84). -/
structure Descriptor where
  operation : Operation
  format : Format
deriving DecidableEq, Repr

/-- A descriptor is well formed when its pair is one of R86 (R85). -/
def Descriptor.wellFormed (d : Descriptor) : Bool := d.operation.formats.contains d.format

/-- The descriptor of an instruction (R84). -/
def Instr.descriptor (i : Instr) : Descriptor := ⟨i.operation, i.format⟩

/-- An instruction is well formed when its descriptor is. -/
def Instr.wellFormed (i : Instr) : Bool := i.descriptor.wellFormed

end Sys2Proof
end

