-- ==== Sys2Proof/Decode.lean ====
section
/-! DEFINITION. Decoding and encoding (30_encoding.md R80 to R92): the byte-order helpers, the 256-entry dispatch table as
the matrix of R87, the decoder over a list of bytes, and the encoder from the by-operation table of R86. The two tables
are written out separately. -/

namespace Sys2Proof

/-- Bits 7:0 of a word. -/
def lowByte (w : Word) : Byte := w.setWidth 8

/-- Bits 15:8 of a word. -/
def highByte (w : Word) : Byte := (w >>> 8).setWidth 8

/-- `hi:lo`, the concatenation of two bytes (R9, R83). -/
def joinBytes (hi lo : Byte) : Word := (hi.setWidth 16 <<< 8) ||| lo.setWidth 16

/-- What an assigned opcode byte leaves to be filled in: nothing, one operand byte, or a 16-bit field of two (R82). -/
inductive Template where
  | bare (i : Instr)
  | byte (f : Byte → Instr)
  | word (f : Word → Instr)

/-- Operand bytes a template asks for (R81). -/
def Template.operandBytes : Template → Nat
  | .bare _ => 0
  | .byte _ => 1
  | .word _ => 2

/-- Row 0x of the matrix of R87. -/
def opcodeRow0 : List (Nat × Template) :=
  [ (0x00, .bare .brk),
    (0x01, .byte .oraIzx),
    (0x05, .byte .oraZp),
    (0x06, .byte .aslZp),
    (0x08, .bare .php),
    (0x09, .byte .oraImm),
    (0x0A, .bare .aslAcc),
    (0x0D, .word .oraAbs),
    (0x0E, .word .aslAbs) ]

/-- Row 1x of the matrix of R87. -/
def opcodeRow1 : List (Nat × Template) :=
  [ (0x10, .byte .bpl),
    (0x11, .byte .oraIzy),
    (0x15, .byte .oraZpx),
    (0x16, .byte .aslZpx),
    (0x18, .bare .clc),
    (0x19, .word .oraAby),
    (0x1D, .word .oraAbx),
    (0x1E, .word .aslAbx) ]

/-- Row 2x of the matrix of R87. -/
def opcodeRow2 : List (Nat × Template) :=
  [ (0x20, .word .jsr),
    (0x21, .byte .andIzx),
    (0x24, .byte .bitZp),
    (0x25, .byte .andZp),
    (0x26, .byte .rolZp),
    (0x28, .bare .plp),
    (0x29, .byte .andImm),
    (0x2A, .bare .rolAcc),
    (0x2C, .word .bitAbs),
    (0x2D, .word .andAbs),
    (0x2E, .word .rolAbs) ]

/-- Row 3x of the matrix of R87. -/
def opcodeRow3 : List (Nat × Template) :=
  [ (0x30, .byte .bmi),
    (0x31, .byte .andIzy),
    (0x35, .byte .andZpx),
    (0x36, .byte .rolZpx),
    (0x38, .bare .sec),
    (0x39, .word .andAby),
    (0x3D, .word .andAbx),
    (0x3E, .word .rolAbx) ]

/-- Row 4x of the matrix of R87. -/
def opcodeRow4 : List (Nat × Template) :=
  [ (0x40, .bare .rti),
    (0x41, .byte .eorIzx),
    (0x45, .byte .eorZp),
    (0x46, .byte .lsrZp),
    (0x48, .bare .pha),
    (0x49, .byte .eorImm),
    (0x4A, .bare .lsrAcc),
    (0x4C, .word .jmpAbs),
    (0x4D, .word .eorAbs),
    (0x4E, .word .lsrAbs) ]

/-- Row 5x of the matrix of R87. -/
def opcodeRow5 : List (Nat × Template) :=
  [ (0x50, .byte .bvc),
    (0x51, .byte .eorIzy),
    (0x55, .byte .eorZpx),
    (0x56, .byte .lsrZpx),
    (0x58, .bare .cli),
    (0x59, .word .eorAby),
    (0x5D, .word .eorAbx),
    (0x5E, .word .lsrAbx) ]

/-- Row 6x of the matrix of R87. -/
def opcodeRow6 : List (Nat × Template) :=
  [ (0x60, .bare .rts),
    (0x61, .byte .adcIzx),
    (0x65, .byte .adcZp),
    (0x66, .byte .rorZp),
    (0x68, .bare .pla),
    (0x69, .byte .adcImm),
    (0x6A, .bare .rorAcc),
    (0x6C, .word .jmpInd),
    (0x6D, .word .adcAbs),
    (0x6E, .word .rorAbs) ]

/-- Row 7x of the matrix of R87. -/
def opcodeRow7 : List (Nat × Template) :=
  [ (0x70, .byte .bvs),
    (0x71, .byte .adcIzy),
    (0x75, .byte .adcZpx),
    (0x76, .byte .rorZpx),
    (0x78, .bare .sei),
    (0x79, .word .adcAby),
    (0x7D, .word .adcAbx),
    (0x7E, .word .rorAbx) ]

/-- Row 8x of the matrix of R87. -/
def opcodeRow8 : List (Nat × Template) :=
  [ (0x81, .byte .staIzx),
    (0x84, .byte .styZp),
    (0x85, .byte .staZp),
    (0x86, .byte .stxZp),
    (0x88, .bare .dey),
    (0x8A, .bare .txa),
    (0x8C, .word .styAbs),
    (0x8D, .word .staAbs),
    (0x8E, .word .stxAbs) ]

/-- Row 9x of the matrix of R87. -/
def opcodeRow9 : List (Nat × Template) :=
  [ (0x90, .byte .bcc),
    (0x91, .byte .staIzy),
    (0x94, .byte .styZpx),
    (0x95, .byte .staZpx),
    (0x96, .byte .stxZpy),
    (0x98, .bare .tya),
    (0x99, .word .staAby),
    (0x9A, .bare .txs),
    (0x9D, .word .staAbx) ]

/-- Row Ax of the matrix of R87. -/
def opcodeRowA : List (Nat × Template) :=
  [ (0xA0, .byte .ldyImm),
    (0xA1, .byte .ldaIzx),
    (0xA2, .byte .ldxImm),
    (0xA4, .byte .ldyZp),
    (0xA5, .byte .ldaZp),
    (0xA6, .byte .ldxZp),
    (0xA8, .bare .tay),
    (0xA9, .byte .ldaImm),
    (0xAA, .bare .tax),
    (0xAC, .word .ldyAbs),
    (0xAD, .word .ldaAbs),
    (0xAE, .word .ldxAbs) ]

/-- Row Bx of the matrix of R87. -/
def opcodeRowB : List (Nat × Template) :=
  [ (0xB0, .byte .bcs),
    (0xB1, .byte .ldaIzy),
    (0xB4, .byte .ldyZpx),
    (0xB5, .byte .ldaZpx),
    (0xB6, .byte .ldxZpy),
    (0xB8, .bare .clv),
    (0xB9, .word .ldaAby),
    (0xBA, .bare .tsx),
    (0xBC, .word .ldyAbx),
    (0xBD, .word .ldaAbx),
    (0xBE, .word .ldxAby) ]

/-- Row Cx of the matrix of R87. -/
def opcodeRowC : List (Nat × Template) :=
  [ (0xC0, .byte .cpyImm),
    (0xC1, .byte .cmpIzx),
    (0xC4, .byte .cpyZp),
    (0xC5, .byte .cmpZp),
    (0xC6, .byte .decZp),
    (0xC8, .bare .iny),
    (0xC9, .byte .cmpImm),
    (0xCA, .bare .dex),
    (0xCC, .word .cpyAbs),
    (0xCD, .word .cmpAbs),
    (0xCE, .word .decAbs) ]

/-- Row Dx of the matrix of R87. -/
def opcodeRowD : List (Nat × Template) :=
  [ (0xD0, .byte .bne),
    (0xD1, .byte .cmpIzy),
    (0xD5, .byte .cmpZpx),
    (0xD6, .byte .decZpx),
    (0xD8, .bare .cld),
    (0xD9, .word .cmpAby),
    (0xDD, .word .cmpAbx),
    (0xDE, .word .decAbx) ]

/-- Row Ex of the matrix of R87. -/
def opcodeRowE : List (Nat × Template) :=
  [ (0xE0, .byte .cpxImm),
    (0xE1, .byte .sbcIzx),
    (0xE4, .byte .cpxZp),
    (0xE5, .byte .sbcZp),
    (0xE6, .byte .incZp),
    (0xE8, .bare .inx),
    (0xE9, .byte .sbcImm),
    (0xEA, .bare .nop),
    (0xEC, .word .cpxAbs),
    (0xED, .word .sbcAbs),
    (0xEE, .word .incAbs) ]

/-- Row Fx of the matrix of R87. -/
def opcodeRowF : List (Nat × Template) :=
  [ (0xF0, .byte .beq),
    (0xF1, .byte .sbcIzy),
    (0xF5, .byte .sbcZpx),
    (0xF6, .byte .incZpx),
    (0xF8, .bare .sed),
    (0xF9, .word .sbcAby),
    (0xFD, .word .sbcAbx),
    (0xFE, .word .incAbx) ]

/-- The assigned opcode bytes whose high digit is `h`: the rows of the matrix (R35, R84, R87). -/
def opcodeRow (h : Nat) : List (Nat × Template) :=
  match h with
  | 0x0 => opcodeRow0
  | 0x1 => opcodeRow1
  | 0x2 => opcodeRow2
  | 0x3 => opcodeRow3
  | 0x4 => opcodeRow4
  | 0x5 => opcodeRow5
  | 0x6 => opcodeRow6
  | 0x7 => opcodeRow7
  | 0x8 => opcodeRow8
  | 0x9 => opcodeRow9
  | 0xA => opcodeRowA
  | 0xB => opcodeRowB
  | 0xC => opcodeRowC
  | 0xD => opcodeRowD
  | 0xE => opcodeRowE
  | 0xF => opcodeRowF
  | _ => []

/-- The entry of a key in a list of rows. -/
def findRow : List (Nat × Template) → Nat → Option Template
  | [], _ => none
  | (k, t) :: rest, n => if k == n then some t else findRow rest n

/-- The dispatch table as a total function on bytes: `none` for an undefined opcode (R35, R84, R88). -/
def dispatchTable (b0 : Byte) : Option Template := findRow (opcodeRow (b0.toNat / 16)) b0.toNat

/-- What decoding a list of bytes answers. -/
inductive DecodeResult where
  /-- The instruction and the bytes after it. -/
  | instr (i : Instr) (rest : List Byte)
  /-- The first byte is one of the 105 undefined opcodes (R88). -/
  | invalidOpcode (b0 : Byte)
  /-- There are fewer bytes than the instruction has. -/
  | truncated
deriving DecidableEq, Repr

/-- The bytes after the opcode, given its template: a 16-bit field is low byte first (R82, R83). -/
def decodeOperand : Template → List Byte → DecodeResult
  | .bare i, rest => .instr i rest
  | .byte f, b1 :: rest => .instr (f b1) rest
  | .byte _, [] => .truncated
  | .word f, b1 :: b2 :: rest => .instr (f (joinBytes b2 b1)) rest
  | .word _, [_] => .truncated
  | .word _, [] => .truncated

/-- The decode procedure (R92). -/
def decode : List Byte → DecodeResult
  | [] => .truncated
  | b0 :: rest =>
    match dispatchTable b0 with
    | none => .invalidOpcode b0
    | some t => decodeOperand t rest

/-- The opcode byte of an instruction: the by-operation table of R86. -/
def Instr.opcode : Instr → Byte
  | .ldaImm _ => 0xA9
  | .ldaZp _ => 0xA5
  | .ldaZpx _ => 0xB5
  | .ldaAbs _ => 0xAD
  | .ldaAbx _ => 0xBD
  | .ldaAby _ => 0xB9
  | .ldaIzx _ => 0xA1
  | .ldaIzy _ => 0xB1
  | .ldxImm _ => 0xA2
  | .ldxZp _ => 0xA6
  | .ldxZpy _ => 0xB6
  | .ldxAbs _ => 0xAE
  | .ldxAby _ => 0xBE
  | .ldyImm _ => 0xA0
  | .ldyZp _ => 0xA4
  | .ldyZpx _ => 0xB4
  | .ldyAbs _ => 0xAC
  | .ldyAbx _ => 0xBC
  | .staZp _ => 0x85
  | .staZpx _ => 0x95
  | .staAbs _ => 0x8D
  | .staAbx _ => 0x9D
  | .staAby _ => 0x99
  | .staIzx _ => 0x81
  | .staIzy _ => 0x91
  | .stxZp _ => 0x86
  | .stxZpy _ => 0x96
  | .stxAbs _ => 0x8E
  | .styZp _ => 0x84
  | .styZpx _ => 0x94
  | .styAbs _ => 0x8C
  | .tax => 0xAA
  | .tay => 0xA8
  | .txa => 0x8A
  | .tya => 0x98
  | .tsx => 0xBA
  | .txs => 0x9A
  | .andImm _ => 0x29
  | .andZp _ => 0x25
  | .andZpx _ => 0x35
  | .andAbs _ => 0x2D
  | .andAbx _ => 0x3D
  | .andAby _ => 0x39
  | .andIzx _ => 0x21
  | .andIzy _ => 0x31
  | .oraImm _ => 0x09
  | .oraZp _ => 0x05
  | .oraZpx _ => 0x15
  | .oraAbs _ => 0x0D
  | .oraAbx _ => 0x1D
  | .oraAby _ => 0x19
  | .oraIzx _ => 0x01
  | .oraIzy _ => 0x11
  | .eorImm _ => 0x49
  | .eorZp _ => 0x45
  | .eorZpx _ => 0x55
  | .eorAbs _ => 0x4D
  | .eorAbx _ => 0x5D
  | .eorAby _ => 0x59
  | .eorIzx _ => 0x41
  | .eorIzy _ => 0x51
  | .bitZp _ => 0x24
  | .bitAbs _ => 0x2C
  | .incZp _ => 0xE6
  | .incZpx _ => 0xF6
  | .incAbs _ => 0xEE
  | .incAbx _ => 0xFE
  | .decZp _ => 0xC6
  | .decZpx _ => 0xD6
  | .decAbs _ => 0xCE
  | .decAbx _ => 0xDE
  | .inx => 0xE8
  | .iny => 0xC8
  | .dex => 0xCA
  | .dey => 0x88
  | .adcImm _ => 0x69
  | .adcZp _ => 0x65
  | .adcZpx _ => 0x75
  | .adcAbs _ => 0x6D
  | .adcAbx _ => 0x7D
  | .adcAby _ => 0x79
  | .adcIzx _ => 0x61
  | .adcIzy _ => 0x71
  | .sbcImm _ => 0xE9
  | .sbcZp _ => 0xE5
  | .sbcZpx _ => 0xF5
  | .sbcAbs _ => 0xED
  | .sbcAbx _ => 0xFD
  | .sbcAby _ => 0xF9
  | .sbcIzx _ => 0xE1
  | .sbcIzy _ => 0xF1
  | .aslAcc => 0x0A
  | .aslZp _ => 0x06
  | .aslZpx _ => 0x16
  | .aslAbs _ => 0x0E
  | .aslAbx _ => 0x1E
  | .lsrAcc => 0x4A
  | .lsrZp _ => 0x46
  | .lsrZpx _ => 0x56
  | .lsrAbs _ => 0x4E
  | .lsrAbx _ => 0x5E
  | .rolAcc => 0x2A
  | .rolZp _ => 0x26
  | .rolZpx _ => 0x36
  | .rolAbs _ => 0x2E
  | .rolAbx _ => 0x3E
  | .rorAcc => 0x6A
  | .rorZp _ => 0x66
  | .rorZpx _ => 0x76
  | .rorAbs _ => 0x6E
  | .rorAbx _ => 0x7E
  | .cmpImm _ => 0xC9
  | .cmpZp _ => 0xC5
  | .cmpZpx _ => 0xD5
  | .cmpAbs _ => 0xCD
  | .cmpAbx _ => 0xDD
  | .cmpAby _ => 0xD9
  | .cmpIzx _ => 0xC1
  | .cmpIzy _ => 0xD1
  | .cpxImm _ => 0xE0
  | .cpxZp _ => 0xE4
  | .cpxAbs _ => 0xEC
  | .cpyImm _ => 0xC0
  | .cpyZp _ => 0xC4
  | .cpyAbs _ => 0xCC
  | .bcc _ => 0x90
  | .bcs _ => 0xB0
  | .beq _ => 0xF0
  | .bne _ => 0xD0
  | .bmi _ => 0x30
  | .bpl _ => 0x10
  | .bvc _ => 0x50
  | .bvs _ => 0x70
  | .jmpAbs _ => 0x4C
  | .jmpInd _ => 0x6C
  | .jsr _ => 0x20
  | .rts => 0x60
  | .pha => 0x48
  | .php => 0x08
  | .pla => 0x68
  | .plp => 0x28
  | .brk => 0x00
  | .rti => 0x40
  | .clc => 0x18
  | .cld => 0xD8
  | .cli => 0x58
  | .clv => 0xB8
  | .sec => 0x38
  | .sed => 0xF8
  | .sei => 0x78
  | .nop => 0xEA

/-- The operand bytes of a memory operand (R82): a 16-bit field low byte first (R83). -/
def MemOperand.bytes : MemOperand → List Byte
  | .zp z | .zpx z | .zpy z | .izx z | .izy z => [z]
  | .rel d => [d]
  | .abs w | .abx w | .aby w | .ind w => [lowByte w, highByte w]

/-- The operand bytes of an operand (R82). -/
def Operand.bytes : Operand → List Byte
  | .imp | .acc => []
  | .imm v => [v]
  | .mem m => m.bytes

/-- The bytes of an instruction, opcode first (R80, R82). -/
def encode (i : Instr) : List Byte := i.opcode :: i.operand.bytes

/-- The three bytes at the lowest addresses of an instruction of `nbits` bits numbered as spec/opcode_table.json numbers
them; every bit above `nbits` is 0. -/
def tableWordBytes (nbits w : Nat) : List Byte :=
  let v := w % 2 ^ nbits
  [BitVec.ofNat 8 v, BitVec.ofNat 8 (v / 256), BitVec.ofNat 8 (v / 65536)]

/-- The instruction the decoder reads from those bytes. -/
def decodeTableWord (nbits w : Nat) : Option Instr :=
  match decode (tableWordBytes nbits w) with
  | .instr i _ => some i
  | .invalidOpcode _ => none
  | .truncated => none

end Sys2Proof
end

