-- ==== Sys2Proof/Machine/State.lean ====
section
/-! DEFINITION. The state of the machine (10_state.md R20 to R41), the environment data the step reads (R8, R244, R52), the
open parameters of R6, the outputs of the transition just made (R8), the fault and refusal reasons, the register accessors, and State.reset. -/

namespace Sys2Proof.Machine

/-- The seven stored flags of P (R26, R41). Bit 5 is no storage element (R27). -/
structure Status where
  n : Bool
  v : Bool
  b : Bool
  d : Bool
  i : Bool
  z : Bool
  c : Bool
deriving DecidableEq, Repr

/-- Memory: (address, byte) pairs in the canonical form that Memory.wf states. An address that is not listed reads
`Config.unlistedByte`. -/
abbrev Memory := List Host.Cell

/-- One access on the memory port: `addr` with `rw` and `rdata` or `wdata` (R8, R50). -/
inductive Access where
  | read (addr : Word) (rdata : Byte)
  | write (addr : Word) (wdata : Byte)
deriving DecidableEq, Repr

/-- What the environment does with one access of the block (R51, R52, R57, D11). -/
inductive Response where
  /-- Plain RAM, the default environment: a read is answered with the byte memory holds, a write is stored. -/
  | ram
  /-- The host's own answer, whatever stands at the address: a read returns `answer`, a write is taken and not stored, and in
  both cases memory changes by `changes` and nothing else. A read-only region that discards a write is `changes = []`; a device
  whose access has a side effect on memory lists it. -/
  | device (answer : Byte) (changes : List (Word × Byte))
deriving DecidableEq, Repr

/-- What the environment presents at one instruction boundary: the three inputs (R8, R244), and the bytes the host changes
in its memory between the two transitions (R64). -/
structure Boundary where
  reset : Bool
  nmi : Bool
  irq : Bool
  hostWrites : List (Word × Byte)
deriving DecidableEq, Repr

/-- The machine. `a` to `p` are the block's whole state (R41). `mem` and `inputs` belong to the environment: `inputs` lists
the boundaries to come, first one first, and after the last one nothing is presented. `responses` lists what the environment
does with the accesses to come, first one first, and after the last one it is plain RAM (R52; notes/assumptions/3.md).
`cycleTable` is the open parameter of R6, which no transition changes. `bus` and `cycles` are the outputs of the transition just
made: its accesses in order (R59) and its cycle report (R283). -/
structure State where
  a : Byte
  x : Byte
  y : Byte
  sp : Byte
  pc : Word
  p : Status
  mem : Memory
  inputs : List Boundary
  responses : List Response
  cycleTable : CycleTable
  bus : List Access
  cycles : Option Nat
deriving DecidableEq, Repr

/-- Why a step reports a fault: the source's whole error taxonomy (R240). -/
inductive Fault where
  /-- Raised by `step` when the opcode byte `b` is one of the 105 undefined ones (R88, R241). `left` is the state the fault
  leaves: PC past that byte, nothing else changed. The block is not halted there, so a host may go on from `left` (R242).
  Neither safe nor unsafe: it is the behaviour the spec gives. -/
  | invalidOpcode (b : Byte) (left : State)
deriving DecidableEq, Repr

/-- Why the model refuses to run an instruction. -/
inductive Refusal where
  /-- Raised by `exec` for an instruction without a meaning. No arm raises it in this model. Safe. -/
  | notModelled (mnemonic : String)
deriving DecidableEq, Repr

/-- The four 8-bit registers (R20, R22). -/
inductive Reg where
  | a | x | y | sp
deriving DecidableEq, Repr

/-- Read a register. -/
def State.reg (s : State) : Reg → Byte
  | .a => s.a
  | .x => s.x
  | .y => s.y
  | .sp => s.sp

/-- Write a register. -/
def State.setReg (s : State) (r : Reg) (v : Byte) : State :=
  match r with
  | .a => { s with a := v }
  | .x => { s with x := v }
  | .y => { s with y := v }
  | .sp => { s with sp := v }

/-- Write PC. -/
def State.setPc (s : State) (v : Word) : State := { s with pc := v }

/-- Write the flags. -/
def State.setP (s : State) (v : Status) : State := { s with p := v }

/-- Write memory as a whole. -/
def State.setMem (s : State) (v : Memory) : State := { s with mem := v }

/-- Write the boundaries to come. -/
def State.setInputs (s : State) (v : List Boundary) : State := { s with inputs := v }

/-- Write the responses to come. -/
def State.setResponses (s : State) (v : List Response) : State := { s with responses := v }

/-- Write the access record. -/
def State.setBus (s : State) (v : List Access) : State := { s with bus := v }

/-- Write the cycle report. -/
def State.setCycles (s : State) (v : Option Nat) : State := { s with cycles := v }

/-- The machine right after a RESET sequence from the power-on values the model names (R39, R270): I is 1, PC is the content
of the RESET vector, which over memory with nothing listed is the unlisted byte twice; the rest is the power-on draw. -/
def State.reset : State where
  a := Config.powerOnIndex
  x := Config.powerOnIndex
  y := Config.powerOnIndex
  sp := Config.powerOnStack
  pc := joinBytes Config.unlistedByte Config.unlistedByte
  p :=
    { n := Config.powerOnFlag
      v := Config.powerOnFlag
      b := Config.powerOnFlag
      d := Config.powerOnFlag
      i := true
      z := Config.powerOnFlag
      c := Config.powerOnFlag }
  mem := []
  inputs := []
  responses := []
  cycleTable := Config.defaultCycleTable
  bus := []
  cycles := none

end Sys2Proof.Machine
end

