-- ==== Sys2Proof/Machine/Flags.lean ====
section
/-! DEFINITION. Flag computations and the ALU (10_state.md R26 to R32; 42 to 46): the byte images of P, SetNZ, binary and decimal
addition and subtraction, compare, bit test, increment and decrement, shifts and rotates, the branch conditions. -/

namespace Sys2Proof.Machine

/-- A flag at bit position `k` of a byte. -/
def flagAt (f : Bool) (k : Nat) : Byte := if f then 1#8 <<< k else 0#8

/-- `as_byte`, PByte(b): the image of P with bit 4 replaced by `brk` and bit 5 = 1 (R28). -/
def statusByte (brk : Bool) (p : Status) : Byte :=
  flagAt p.n 7 ||| flagAt p.v 6 ||| flagAt true 5 ||| flagAt brk 4 ||| flagAt p.d 3 ||| flagAt p.i 2 ||| flagAt p.z 1 |||
    flagAt p.c 0

/-- `from_byte`, SetP(v): the seven stored flags of a byte, bit 5 ignored (R29). -/
def statusOfByte (v : Byte) : Status where
  n := v.getLsbD 7
  v := v.getLsbD 6
  b := v.getLsbD 4
  d := v.getLsbD 3
  i := v.getLsbD 2
  z := v.getLsbD 1
  c := v.getLsbD 0

/-- The host's view of P, PByte(P.B) (R28). -/
def hostStatus (p : Status) : Byte := statusByte p.b p

/-- SetNZ(r) (R30). -/
def setNZ (r : Byte) (p : Status) : Status := { p with z := r == 0#8, n := r.getLsbD 7 }

/-- What an addition or subtraction gives: the result byte and the flags N, V, Z, C (R163 to R165). -/
structure AluResult where
  r : Byte
  n : Bool
  v : Bool
  z : Bool
  c : Bool
deriving DecidableEq, Repr

/-- The overflow formula `(~(a ^ m)) & (a ^ r) & 0x80 != 0` (R163). -/
def overflows (a m r : Byte) : Bool := (~~~(a ^^^ m) &&& (a ^^^ r) &&& 0x80#8) != 0#8

/-- AddBin(a, m, cin), binary addition (R163). -/
def addBin (a m : Byte) (cin : Bool) : AluResult :=
  let sum := a.toNat + m.toNat + cin.toNat
  let r := BitVec.ofNat 8 sum
  { r := r, n := r.getLsbD 7, v := overflows a m r, z := r == 0#8, c := decide (255 < sum) }

/-- The low digit `v & 0x0F` as a number (R164). -/
def lowDigit (v : Byte) : Nat := v.toNat % 16

/-- The high digit in place, `v & 0xF0`, as a number (R164). -/
def highDigit (v : Byte) : Nat := v.toNat / 16 * 16

/-- The low digit sum after its correction, a carry of 16 included (R164). -/
def adjustLowSum (al : Nat) : Nat := if 0x0A ≤ al then (al + 0x06) % 16 + 0x10 else al

/-- The sum after the correction of the high digit (R164). -/
def adjustHighSum (t : Nat) : Nat := if 0xA0 ≤ t then t + 0x60 else t

/-- AddDec(a, m, cin), decimal addition: V from the uncorrected binary sum, N and Z from the corrected byte (R164, with the
spec's decision D13 for operands that are not valid BCD; notes/assumptions/10.md). -/
def addDec (a m : Byte) (cin : Bool) : AluResult :=
  let rb := BitVec.ofNat 8 (a.toNat + m.toNat + cin.toNat)
  let al := adjustLowSum (lowDigit a + lowDigit m + cin.toNat)
  let t := adjustHighSum (highDigit a + highDigit m + al)
  let r := BitVec.ofNat 8 t
  { r := r, n := r.getLsbD 7, v := overflows a m rb, z := r == 0#8, c := decide (0x100 ≤ t) }

/-- The low digit difference after its correction, a borrow of 16 included; `%` has its result in 0 to 15 (R165, R9). -/
def adjustLowDifference (al : Int) : Int := if al < 0 then (al - 0x06) % 16 - 0x10 else al

/-- The difference after the correction of the high digit (R165). -/
def adjustHighDifference (t : Int) : Int := if t < 0 then t - 0x60 else t

/-- SubDec(a, m, cin), decimal subtraction: V and C from the binary difference, N and Z from the corrected byte (R165, with
D13; notes/assumptions/10.md). -/
def subDec (a m : Byte) (cin : Bool) : AluResult :=
  let mc := m ^^^ 0xFF#8
  let sb := a.toNat + mc.toNat + cin.toNat
  let rb := BitVec.ofNat 8 sb
  let al := adjustLowDifference ((lowDigit a : Int) - lowDigit m + cin.toNat - 1)
  let t := adjustHighDifference ((highDigit a : Int) - highDigit m + al)
  let r := BitVec.ofInt 8 t
  { r := r, n := r.getLsbD 7, v := overflows a mc rb, z := r == 0#8, c := decide (255 < sb) }

/-- Compare(reg, m): C from the unsigned comparison, Z from equality, N from the 8-bit difference (R180). -/
def compareFlags (reg m : Byte) (p : Status) : Status :=
  { p with c := decide (m.toNat ≤ reg.toNat), z := reg == m, n := (reg - m).getLsbD 7 }

/-- BIT: Z from A and the operand, N and V from bits 7 and 6 of the operand (R153). -/
def bitFlags (a m : Byte) (p : Status) : Status :=
  { p with z := (a &&& m) == 0#8, n := m.getLsbD 7, v := m.getLsbD 6 }

/-- An operation that reads a byte, writes a byte and changes flags: operand and flags to result and flags. -/
abbrev Modifier := Byte → Status → Byte × Status

/-- Plus one modulo 256, with SetNZ (R154, R156, R157). -/
def increment : Modifier := fun m p => (m + 1#8, setNZ (m + 1#8) p)

/-- Minus one modulo 256, with SetNZ (R155, R158, R159). -/
def decrement : Modifier := fun m p => (m - 1#8, setNZ (m - 1#8) p)

/-- Result of a shift: the byte, the bit shifted out into C, SetNZ (R170). -/
def shifted (r : Byte) (out : Bool) (p : Status) : Byte × Status := (r, setNZ r { p with c := out })

/-- ASL (R171). -/
def shiftLeft : Modifier := fun v p => shifted (v <<< 1) (v.getLsbD 7) p

/-- LSR (R172). -/
def shiftRight : Modifier := fun v p => shifted (v >>> 1) (v.getLsbD 0) p

/-- ROL: the prior carry enters at bit 0 (R173). -/
def rotateLeft : Modifier := fun v p => shifted ((v <<< 1) ||| flagAt p.c 0) (v.getLsbD 7) p

/-- ROR: the prior carry enters at bit 7 (R174). -/
def rotateRight : Modifier := fun v p => shifted ((v >>> 1) ||| flagAt p.c 7) (v.getLsbD 0) p

/-- The eight branch conditions (R190). -/
inductive Condition where
  | carryClear | carrySet | zeroSet | zeroClear | negativeSet | negativeClear | overflowClear | overflowSet
deriving DecidableEq, Repr

/-- When a branch is taken: the table of R190. -/
def Condition.holds (c : Condition) (p : Status) : Bool :=
  match c with
  | .carryClear => !p.c
  | .carrySet => p.c
  | .zeroSet => p.z
  | .zeroClear => !p.z
  | .negativeSet => p.n
  | .negativeClear => !p.n
  | .overflowClear => !p.v
  | .overflowSet => p.v

end Sys2Proof.Machine
end

