-- ==== Sys2Proof/Machine/Ops.lean ====
section
/-! DEFINITION. The shared operations: memory in canonical form, the memory port (20_memory.md R50 to R52), the fetch, vector and stack
primitives (00_scope.md R10, 48_stack.md R210, R211), the interrupt entry shared by BRK, IRQ and NMI (R220, R248), the return
from it (R221), and the RESET sequence (R270). -/

namespace Sys2Proof.Machine

/-- The byte at an address; an address that is not listed reads `Config.unlistedByte`. -/
def Memory.read : Memory → Nat → Byte
  | [], _ => Config.unlistedByte
  | (k, v) :: rest, a => if k = a then v else Memory.read rest a

/-- A cell in front of a list, left out when its byte is what an unlisted address reads as. -/
def Memory.put (a : Nat) (v : Byte) (rest : Memory) : Memory :=
  if v = Config.unlistedByte then rest else (a, v) :: rest

/-- Write one byte, keeping the canonical form. -/
def Memory.write : Memory → Nat → Byte → Memory
  | [], a, v => Memory.put a v []
  | (k, w) :: rest, a, v =>
    if a < k then Memory.put a v ((k, w) :: rest)
    else if a = k then Memory.put a v rest
    else (k, w) :: Memory.write rest a v

/-- Addresses from `lo` on, strictly rising and inside the 64 KiB space (R34), and no listed byte equal to what an unlisted
address reads as. -/
def Memory.wfFrom : Nat → Memory → Bool
  | _, [] => true
  | lo, (k, v) :: rest => decide (lo ≤ k) && decide (k < 65536) && (v != Config.unlistedByte) && Memory.wfFrom (k + 1) rest

/-- The canonical form of memory. -/
def Memory.wf (m : Memory) : Bool := Memory.wfFrom 0 m

/-- The byte memory holds at an address, without an access of the block. -/
def peek (s : State) (a : Word) : Byte := Memory.read s.mem a.toNat

/-- Changes to memory that the block does not make: the host's between two transitions (R64), or a device's at an access (R57).
They are no accesses of the block. -/
def applyHostWrites : List (Word × Byte) → Memory → Memory
  | [], m => m
  | (a, v) :: rest, m => applyHostWrites rest (Memory.write m a.toNat v)

/-- The byte the environment answers to a read at an address (R51, R52). -/
def answer (a : Word) (s : State) : Byte :=
  match s.responses with
  | [] => peek s a
  | .ram :: _ => peek s a
  | .device v _ :: _ => v

/-- Memory after the environment has answered a read (R57). -/
def memoryAfterRead (s : State) : Memory :=
  match s.responses with
  | [] => s.mem
  | .ram :: _ => s.mem
  | .device _ changes :: _ => applyHostWrites changes s.mem

/-- Memory after the environment has taken a write: stored, or left to the host, which may discard it (R51, R57). -/
def memoryAfterWrite (a : Word) (v : Byte) (s : State) : Memory :=
  match s.responses with
  | [] => Memory.write s.mem a.toNat v
  | .ram :: _ => Memory.write s.mem a.toNat v
  | .device _ changes :: _ => applyHostWrites changes s.mem

/-- MemRead(a, 1): one read through the memory port (R10, R50), answered by the environment and recorded on the bus. -/
def busRead (a : Word) (s : State) : Byte × State :=
  (answer a s,
    ((s.setMem (memoryAfterRead s)).setResponses s.responses.tail).setBus (s.bus ++ [.read a (answer a s)]))

/-- MemWrite(a, 1, v): one write through the memory port (R10, R50), taken by the environment and recorded on the bus. -/
def busWrite (a : Word) (v : Byte) (s : State) : State :=
  ((s.setMem (memoryAfterWrite a v s)).setResponses s.responses.tail).setBus (s.bus ++ [.write a v])

/-- Reads at the given addresses, in order: their answers, and the state after them. -/
def portReads : List Word → State → List Byte × State
  | [], s => ([], s)
  | a :: rest, s =>
    let v := busRead a s
    let vs := portReads rest v.2
    (v.1 :: vs.1, vs.2)

/-- Writes of the given bytes at the given addresses, in order. -/
def portWrites : List (Word × Byte) → State → State
  | [], s => s
  | (a, v) :: rest, s => portWrites rest (busWrite a v s)

/-- A state with the memory port as another state has it: what accesses can change (R50), and nothing else. -/
def withPort (s t : State) : State := { s with mem := t.mem, responses := t.responses, bus := t.bus }

/-- Fetch8() (R10): the byte at PC, PC one further modulo 65536. -/
def fetch8 (s : State) : Byte × State :=
  let v := busRead s.pc s
  (v.1, v.2.setPc (s.pc + 1))

/-- Fetch16() (R10): low byte first. -/
def fetch16 (s : State) : Word × State :=
  let lo := fetch8 s
  let hi := fetch8 lo.2
  (joinBytes hi.1 lo.1, hi.2)

/-- A 16-bit quantity whose low and high bytes are at the two given addresses, the low byte read first (R53, R55, R59). -/
def readPair (loAddr hiAddr : Word) (s : State) : Word × State :=
  let lo := busRead loAddr s
  let hi := busRead hiAddr lo.2
  (joinBytes hi.1 lo.1, hi.2)

/-- Read16(a) (R10), used for the vectors (R247). -/
def readVector (a : Word) (s : State) : Word × State := readPair a (a + 1) s

/-- The address a stack pointer denotes, `0x0100 | S` (R22). -/
def stackAddress (sp : Byte) : Word := 0x0100#16 ||| sp.setWidth 16

/-- Push8(v): write at the address S denotes, then decrement S modulo 256 (R210). -/
def push8 (v : Byte) (s : State) : State := (busWrite (stackAddress s.sp) v s).setReg .sp (s.sp - 1#8)

/-- Pull8(): increment S modulo 256, then read at the address S denotes (R211). -/
def pull8 (s : State) : Byte × State := busRead (stackAddress (s.sp + 1#8)) (s.setReg .sp (s.sp + 1#8))

/-- The three pushes of an entry: return address high, low, then the status image with bit 4 as given (R220, R248). -/
def pushFrame (brk : Bool) (ret : Word) (s : State) : State :=
  push8 (statusByte brk s.p) (push8 (lowByte ret) (push8 (highByte ret) s))

/-- Load PC from a vector (R247). -/
def loadVector (vector : Word) (s : State) : State :=
  let v := readVector vector s
  v.2.setPc v.1

/-- Taking an interrupt: push the frame, with I as it was, set I, load PC from the vector (R220 for BRK, R248 for IRQ and NMI).
A, X, Y and the other flags stay (R249). -/
def takeInterrupt (brk : Bool) (ret vector : Word) (s : State) : State :=
  let t := pushFrame brk ret s
  loadVector vector (t.setP { t.p with i := true })

/-- Returning from an interrupt: pull the status, then PC low and high, nothing added (R221, R254). -/
def returnFromInterrupt (s : State) : State :=
  let v := pull8 s
  let lo := pull8 (v.2.setP (statusOfByte v.1))
  let hi := pull8 lo.2
  hi.2.setPc (joinBytes hi.1 lo.1)

/-- The RESET sequence: set I, load PC from the RESET vector, nothing else (R270). -/
def resetSequence (s : State) : State := loadVector Config.resetVector (s.setP { s.p with i := true })

end Sys2Proof.Machine
end

