-- ==== Sys2Proof/Machine/Operands.lean ====
section
/-! DEFINITION. The addressing mode resolver (40_addressing_modes.md R100 to R116) and the reading and writing of operands (R101).
The operand bytes have been fetched, so PC is past them (R23; notes/assumptions/12.md). -/

namespace Sys2Proof.Machine

/-- `zext_16` (R10): a zero-page address, or an index as a u16. -/
def zeroExtend16 (v : Byte) : Word := v.setWidth 16

/-- `sext_16` (R10): a branch displacement. -/
def signExtend16 (v : Byte) : Word := v.signExtend 16

/-- Whether two addresses are in different pages, bits 15:8 (R286). -/
def crossesPage (a b : Word) : Bool := highByte a != highByte b

/-- Where the high byte of an indirect-JMP pointer is read: the next address within the pointer's own page (R111). -/
def nextInPage (ptr : Word) : Word := (ptr &&& 0xFF00#16) ||| ((ptr + 1) &&& 0x00FF#16)

/-- A 16-bit pointer in page 0: both byte addresses wrap within page 0 (R55, R112, R113). -/
def readZeroPagePointer (z : Byte) (s : State) : Word × State := readPair (zeroExtend16 z) (zeroExtend16 (z + 1#8)) s

/-- What a resolver answers for an address operand: the effective address, the `page_cross` output, and the state after its
pointer reads (R100). -/
structure Resolved where
  ea : Word
  pageCross : Bool
  state : State
deriving DecidableEq, Repr

/-- A base address plus an unsigned index modulo 65536, with the page crossing it makes (R109, R110, R113). -/
def indexed (base : Word) (index : Byte) (s : State) : Resolved :=
  ⟨base + zeroExtend16 index, crossesPage base (base + zeroExtend16 index), s⟩

/-- The resolvers of the ten address formats. -/
def resolve (m : MemOperand) (s : State) : Resolved :=
  match m with
  | .zp zp8 => ⟨zeroExtend16 zp8, false, s⟩ -- R105
  | .zpx zp8 => ⟨zeroExtend16 (zp8 + s.x), false, s⟩ -- R106
  | .zpy zp8 => ⟨zeroExtend16 (zp8 + s.y), false, s⟩ -- R107
  | .abs addr => ⟨addr, false, s⟩ -- R108
  | .abx addr => indexed addr s.x s -- R109
  | .aby addr => indexed addr s.y s -- R110
  | .ind ptr => -- R111
    let v := readPair ptr (nextInPage ptr) s
    ⟨v.1, false, v.2⟩
  | .izx zp8 => -- R112
    let v := readZeroPagePointer (zp8 + s.x) s
    ⟨v.1, false, v.2⟩
  | .izy zp8 => -- R113
    let v := readZeroPagePointer zp8 s
    indexed v.1 s.y v.2
  | .rel rel8 => ⟨s.pc + signExtend16 rel8, crossesPage s.pc (s.pc + signExtend16 rel8), s⟩ -- R114

/-- Load of an operand that is only read: the immediate byte, already fetched (R104), or one read at the effective
address (R101). -/
def readSource (src : Source) (s : State) : Byte × State :=
  match src with
  | .imm imm8 => (imm8, s)
  | .mem m =>
    let e := resolve m s
    busRead e.ea e.state

/-- Load, modify, Store of a place (R101): the register itself, or one read then one write of the same effective address,
with the flags the modifier gives (R154, R170). -/
def readModifyWrite (f : Modifier) (pl : Place) (s : State) : State :=
  match pl with
  | .acc =>
    let v := f s.a s.p
    (s.setReg .a v.1).setP v.2
  | .mem m =>
    let e := resolve m s
    let b := busRead e.ea e.state
    let v := f b.1 b.2.p
    (busWrite e.ea v.1 b.2).setP v.2

end Sys2Proof.Machine
end

