-- ==== Sys2Proof/Machine/Cycles.lean ====
section
/-! DEFINITION. The cycle report (70_reset_and_hazards.md R283 to R285): the spec's default CycleTable, the table in force, and
the report of one transition, an output that no rule reads (notes/assumptions/8.md). -/

namespace Sys2Proof.Machine

/-- The default CycleTable (R284), by instruction. A branch's base is its not-taken figure. -/
def defaultTiming : Instr → Timing
  | .ldaImm _ => ⟨2, false⟩
  | .ldaZp _ => ⟨3, false⟩
  | .ldaZpx _ => ⟨4, false⟩
  | .ldaAbs _ => ⟨4, false⟩
  | .ldaAbx _ => ⟨4, true⟩
  | .ldaAby _ => ⟨4, true⟩
  | .ldaIzx _ => ⟨6, false⟩
  | .ldaIzy _ => ⟨5, true⟩
  | .ldxImm _ => ⟨2, false⟩
  | .ldxZp _ => ⟨3, false⟩
  | .ldxZpy _ => ⟨4, false⟩
  | .ldxAbs _ => ⟨4, false⟩
  | .ldxAby _ => ⟨4, true⟩
  | .ldyImm _ => ⟨2, false⟩
  | .ldyZp _ => ⟨3, false⟩
  | .ldyZpx _ => ⟨4, false⟩
  | .ldyAbs _ => ⟨4, false⟩
  | .ldyAbx _ => ⟨4, true⟩
  | .staZp _ => ⟨3, false⟩
  | .staZpx _ => ⟨4, false⟩
  | .staAbs _ => ⟨4, false⟩
  | .staAbx _ => ⟨5, false⟩
  | .staAby _ => ⟨5, false⟩
  | .staIzx _ => ⟨6, false⟩
  | .staIzy _ => ⟨6, false⟩
  | .stxZp _ => ⟨3, false⟩
  | .stxZpy _ => ⟨4, false⟩
  | .stxAbs _ => ⟨4, false⟩
  | .styZp _ => ⟨3, false⟩
  | .styZpx _ => ⟨4, false⟩
  | .styAbs _ => ⟨4, false⟩
  | .tax => ⟨2, false⟩
  | .tay => ⟨2, false⟩
  | .txa => ⟨2, false⟩
  | .tya => ⟨2, false⟩
  | .tsx => ⟨2, false⟩
  | .txs => ⟨2, false⟩
  | .andImm _ => ⟨2, false⟩
  | .andZp _ => ⟨3, false⟩
  | .andZpx _ => ⟨4, false⟩
  | .andAbs _ => ⟨4, false⟩
  | .andAbx _ => ⟨4, true⟩
  | .andAby _ => ⟨4, true⟩
  | .andIzx _ => ⟨6, false⟩
  | .andIzy _ => ⟨5, true⟩
  | .oraImm _ => ⟨2, false⟩
  | .oraZp _ => ⟨3, false⟩
  | .oraZpx _ => ⟨4, false⟩
  | .oraAbs _ => ⟨4, false⟩
  | .oraAbx _ => ⟨4, true⟩
  | .oraAby _ => ⟨4, true⟩
  | .oraIzx _ => ⟨6, false⟩
  | .oraIzy _ => ⟨5, true⟩
  | .eorImm _ => ⟨2, false⟩
  | .eorZp _ => ⟨3, false⟩
  | .eorZpx _ => ⟨4, false⟩
  | .eorAbs _ => ⟨4, false⟩
  | .eorAbx _ => ⟨4, true⟩
  | .eorAby _ => ⟨4, true⟩
  | .eorIzx _ => ⟨6, false⟩
  | .eorIzy _ => ⟨5, true⟩
  | .bitZp _ => ⟨3, false⟩
  | .bitAbs _ => ⟨4, false⟩
  | .incZp _ => ⟨5, false⟩
  | .incZpx _ => ⟨6, false⟩
  | .incAbs _ => ⟨6, false⟩
  | .incAbx _ => ⟨7, false⟩
  | .decZp _ => ⟨5, false⟩
  | .decZpx _ => ⟨6, false⟩
  | .decAbs _ => ⟨6, false⟩
  | .decAbx _ => ⟨7, false⟩
  | .inx => ⟨2, false⟩
  | .iny => ⟨2, false⟩
  | .dex => ⟨2, false⟩
  | .dey => ⟨2, false⟩
  | .adcImm _ => ⟨2, false⟩
  | .adcZp _ => ⟨3, false⟩
  | .adcZpx _ => ⟨4, false⟩
  | .adcAbs _ => ⟨4, false⟩
  | .adcAbx _ => ⟨4, true⟩
  | .adcAby _ => ⟨4, true⟩
  | .adcIzx _ => ⟨6, false⟩
  | .adcIzy _ => ⟨5, true⟩
  | .sbcImm _ => ⟨2, false⟩
  | .sbcZp _ => ⟨3, false⟩
  | .sbcZpx _ => ⟨4, false⟩
  | .sbcAbs _ => ⟨4, false⟩
  | .sbcAbx _ => ⟨4, true⟩
  | .sbcAby _ => ⟨4, true⟩
  | .sbcIzx _ => ⟨6, false⟩
  | .sbcIzy _ => ⟨5, true⟩
  | .aslAcc => ⟨2, false⟩
  | .aslZp _ => ⟨5, false⟩
  | .aslZpx _ => ⟨6, false⟩
  | .aslAbs _ => ⟨6, false⟩
  | .aslAbx _ => ⟨7, false⟩
  | .lsrAcc => ⟨2, false⟩
  | .lsrZp _ => ⟨5, false⟩
  | .lsrZpx _ => ⟨6, false⟩
  | .lsrAbs _ => ⟨6, false⟩
  | .lsrAbx _ => ⟨7, false⟩
  | .rolAcc => ⟨2, false⟩
  | .rolZp _ => ⟨5, false⟩
  | .rolZpx _ => ⟨6, false⟩
  | .rolAbs _ => ⟨6, false⟩
  | .rolAbx _ => ⟨7, false⟩
  | .rorAcc => ⟨2, false⟩
  | .rorZp _ => ⟨5, false⟩
  | .rorZpx _ => ⟨6, false⟩
  | .rorAbs _ => ⟨6, false⟩
  | .rorAbx _ => ⟨7, false⟩
  | .cmpImm _ => ⟨2, false⟩
  | .cmpZp _ => ⟨3, false⟩
  | .cmpZpx _ => ⟨4, false⟩
  | .cmpAbs _ => ⟨4, false⟩
  | .cmpAbx _ => ⟨4, true⟩
  | .cmpAby _ => ⟨4, true⟩
  | .cmpIzx _ => ⟨6, false⟩
  | .cmpIzy _ => ⟨5, true⟩
  | .cpxImm _ => ⟨2, false⟩
  | .cpxZp _ => ⟨3, false⟩
  | .cpxAbs _ => ⟨4, false⟩
  | .cpyImm _ => ⟨2, false⟩
  | .cpyZp _ => ⟨3, false⟩
  | .cpyAbs _ => ⟨4, false⟩
  | .bcc _ => ⟨2, false⟩
  | .bcs _ => ⟨2, false⟩
  | .beq _ => ⟨2, false⟩
  | .bne _ => ⟨2, false⟩
  | .bmi _ => ⟨2, false⟩
  | .bpl _ => ⟨2, false⟩
  | .bvc _ => ⟨2, false⟩
  | .bvs _ => ⟨2, false⟩
  | .jmpAbs _ => ⟨3, false⟩
  | .jmpInd _ => ⟨5, false⟩
  | .jsr _ => ⟨6, false⟩
  | .rts => ⟨6, false⟩
  | .pha => ⟨3, false⟩
  | .php => ⟨3, false⟩
  | .pla => ⟨4, false⟩
  | .plp => ⟨4, false⟩
  | .brk => ⟨7, false⟩
  | .rti => ⟨6, false⟩
  | .clc => ⟨2, false⟩
  | .cld => ⟨2, false⟩
  | .cli => ⟨2, false⟩
  | .clv => ⟨2, false⟩
  | .sec => ⟨2, false⟩
  | .sed => ⟨2, false⟩
  | .sei => ⟨2, false⟩
  | .nop => ⟨2, false⟩

/-- The timing a list gives an opcode byte. -/
def findTiming : List (Byte × Timing) → Byte → Option Timing
  | [], _ => none
  | (k, t) :: rest, b => if k = b then some t else findTiming rest b

/-- The timing of an instruction in a table: the function from opcode byte of R6 and R283. -/
def timingIn (T : CycleTable) (i : Instr) : Timing := (findTiming T.replaced i.opcode).getD (defaultTiming i)

/-- Whether the operand's resolver reports a page crossing (R115). -/
def operandCrosses (o : Operand) (s : State) : Bool :=
  match o with
  | .imp => false
  | .acc => false
  | .imm _ => false
  | .mem m => (resolve m s).pageCross

/-- Cycles a branch adds to its base: one when taken, one more when the target is in another page (R285). -/
def branchExtra (taken cross : Bool) : Nat := taken.toNat + (taken && cross).toNat

/-- The condition a branch tests, `none` for every other operation (R190). -/
def conditionOf : Operation → Option Condition
  | .bcc => some .carryClear
  | .bcs => some .carrySet
  | .beq => some .zeroSet
  | .bne => some .zeroClear
  | .bmi => some .negativeSet
  | .bpl => some .negativeClear
  | .bvc => some .overflowClear
  | .bvs => some .overflowSet
  | .adc | .and | .asl | .bit | .brk | .clc | .cld | .cli | .clv | .cmp | .cpx | .cpy
  | .dec | .dex | .dey | .eor | .inc | .inx | .iny | .jmp | .jsr | .lda | .ldx | .ldy
  | .lsr | .nop | .ora | .pha | .php | .pla | .plp | .rol | .ror | .rti | .rts | .sbc
  | .sec | .sed | .sei | .sta | .stx | .sty | .tax | .tay | .tsx | .txa | .txs | .tya => none

/-- The cycle report of an instruction, from the state its operation starts in (R283, R285). -/
def cycleReport (i : Instr) (s : State) : Nat :=
  let cross := operandCrosses i.operand s
  let timing := timingIn s.cycleTable i
  match conditionOf i.operation with
  | some c => timing.base + branchExtra (c.holds s.p) cross
  | none => timing.base + (timing.penalty && cross).toNat

end Sys2Proof.Machine
end

