-- ==== Sys2Proof/Machine/Arithmetic.lean ====
section
/-! DEFINITION. The meanings of ADC SBC (43_arithmetic.md): one definition for each constructor of
Instr, over the shared operations. At the entry of each, PC is past the instruction's bytes (R23). -/

namespace Sys2Proof.Machine

/-- Write an arithmetic result: A, N, V, Z, C (R160). -/
def accumulate (r : AluResult) (s : State) : State :=
  (s.setReg .a r.r).setP { s.p with n := r.n, v := r.v, z := r.z, c := r.c }

/-- ADC: binary or decimal by P.D (R160, R161). -/
def addWithCarry (src : Source) (s : State) : State :=
  let v := readSource src s
  accumulate (if v.2.p.d then addDec v.2.a v.1 v.2.p.c else addBin v.2.a v.1 v.2.p.c) v.2

/-- SBC: binary through the complemented operand, or decimal, by P.D (R160, R162). -/
def subtractWithBorrow (src : Source) (s : State) : State :=
  let v := readSource src s
  accumulate (if v.2.p.d then subDec v.2.a v.1 v.2.p.c else addBin v.2.a (v.1 ^^^ 0xFF#8) v.2.p.c) v.2

/-- ADC #$nn (R161, R104). -/
def execAdcImm (imm8 : Byte) (s : State) : Host.Outcome State Fault Refusal :=
  .next (addWithCarry (.imm imm8) s)

/-- ADC $nn (R161, R105). -/
def execAdcZp (zp8 : Byte) (s : State) : Host.Outcome State Fault Refusal :=
  .next (addWithCarry (.mem (.zp zp8)) s)

/-- ADC $nn,X (R161, R106). -/
def execAdcZpx (zp8 : Byte) (s : State) : Host.Outcome State Fault Refusal :=
  .next (addWithCarry (.mem (.zpx zp8)) s)

/-- ADC $nnnn (R161, R108). -/
def execAdcAbs (addr : Word) (s : State) : Host.Outcome State Fault Refusal :=
  .next (addWithCarry (.mem (.abs addr)) s)

/-- ADC $nnnn,X (R161, R109). -/
def execAdcAbx (addr : Word) (s : State) : Host.Outcome State Fault Refusal :=
  .next (addWithCarry (.mem (.abx addr)) s)

/-- ADC $nnnn,Y (R161, R110). -/
def execAdcAby (addr : Word) (s : State) : Host.Outcome State Fault Refusal :=
  .next (addWithCarry (.mem (.aby addr)) s)

/-- ADC ($nn,X) (R161, R112). -/
def execAdcIzx (zp8 : Byte) (s : State) : Host.Outcome State Fault Refusal :=
  .next (addWithCarry (.mem (.izx zp8)) s)

/-- ADC ($nn),Y (R161, R113). -/
def execAdcIzy (zp8 : Byte) (s : State) : Host.Outcome State Fault Refusal :=
  .next (addWithCarry (.mem (.izy zp8)) s)

/-- SBC #$nn (R162, R104). -/
def execSbcImm (imm8 : Byte) (s : State) : Host.Outcome State Fault Refusal :=
  .next (subtractWithBorrow (.imm imm8) s)

/-- SBC $nn (R162, R105). -/
def execSbcZp (zp8 : Byte) (s : State) : Host.Outcome State Fault Refusal :=
  .next (subtractWithBorrow (.mem (.zp zp8)) s)

/-- SBC $nn,X (R162, R106). -/
def execSbcZpx (zp8 : Byte) (s : State) : Host.Outcome State Fault Refusal :=
  .next (subtractWithBorrow (.mem (.zpx zp8)) s)

/-- SBC $nnnn (R162, R108). -/
def execSbcAbs (addr : Word) (s : State) : Host.Outcome State Fault Refusal :=
  .next (subtractWithBorrow (.mem (.abs addr)) s)

/-- SBC $nnnn,X (R162, R109). -/
def execSbcAbx (addr : Word) (s : State) : Host.Outcome State Fault Refusal :=
  .next (subtractWithBorrow (.mem (.abx addr)) s)

/-- SBC $nnnn,Y (R162, R110). -/
def execSbcAby (addr : Word) (s : State) : Host.Outcome State Fault Refusal :=
  .next (subtractWithBorrow (.mem (.aby addr)) s)

/-- SBC ($nn,X) (R162, R112). -/
def execSbcIzx (zp8 : Byte) (s : State) : Host.Outcome State Fault Refusal :=
  .next (subtractWithBorrow (.mem (.izx zp8)) s)

/-- SBC ($nn),Y (R162, R113). -/
def execSbcIzy (zp8 : Byte) (s : State) : Host.Outcome State Fault Refusal :=
  .next (subtractWithBorrow (.mem (.izy zp8)) s)

end Sys2Proof.Machine
end

