-- ==== Sys2Proof/Machine/Branch.lean ====
section
/-! DEFINITION. The meanings of BCC BCS BEQ BNE BMI BPL BVC BVS (46_branch.md): one definition for each constructor of
Instr, over the shared operations. At the entry of each, PC is past the instruction's bytes (R23). -/

namespace Sys2Proof.Machine

/-- A conditional branch: PC becomes the Relative target when the condition holds, else it stays past the displacement
byte (R190, R114). -/
def branchIf (c : Condition) (rel8 : Byte) (s : State) : State :=
  let e := resolve (.rel rel8) s
  if c.holds e.state.p then e.state.setPc e.ea else e.state

/-- BCC label (R191, R114). -/
def execBcc (rel8 : Byte) (s : State) : Host.Outcome State Fault Refusal :=
  .next (branchIf .carryClear rel8 s)

/-- BCS label (R192, R114). -/
def execBcs (rel8 : Byte) (s : State) : Host.Outcome State Fault Refusal :=
  .next (branchIf .carrySet rel8 s)

/-- BEQ label (R193, R114). -/
def execBeq (rel8 : Byte) (s : State) : Host.Outcome State Fault Refusal :=
  .next (branchIf .zeroSet rel8 s)

/-- BNE label (R194, R114). -/
def execBne (rel8 : Byte) (s : State) : Host.Outcome State Fault Refusal :=
  .next (branchIf .zeroClear rel8 s)

/-- BMI label (R195, R114). -/
def execBmi (rel8 : Byte) (s : State) : Host.Outcome State Fault Refusal :=
  .next (branchIf .negativeSet rel8 s)

/-- BPL label (R196, R114). -/
def execBpl (rel8 : Byte) (s : State) : Host.Outcome State Fault Refusal :=
  .next (branchIf .negativeClear rel8 s)

/-- BVC label (R197, R114). -/
def execBvc (rel8 : Byte) (s : State) : Host.Outcome State Fault Refusal :=
  .next (branchIf .overflowClear rel8 s)

/-- BVS label (R198, R114). -/
def execBvs (rel8 : Byte) (s : State) : Host.Outcome State Fault Refusal :=
  .next (branchIf .overflowSet rel8 s)

end Sys2Proof.Machine
end

