-- ==== Sys2Proof/Machine/Compare.lean ====
section
/-! DEFINITION. The meanings of CMP CPX CPY (45_compare.md): one definition for each constructor of
Instr, over the shared operations. At the entry of each, PC is past the instruction's bytes (R23). -/

namespace Sys2Proof.Machine

/-- A compare of a register with the operand byte: flags only (R180). -/
def compareRegister (r : Reg) (src : Source) (s : State) : State :=
  let v := readSource src s
  v.2.setP (compareFlags (v.2.reg r) v.1 v.2.p)

/-- CMP #$nn (R181, R104). -/
def execCmpImm (imm8 : Byte) (s : State) : Host.Outcome State Fault Refusal :=
  .next (compareRegister .a (.imm imm8) s)

/-- CMP $nn (R181, R105). -/
def execCmpZp (zp8 : Byte) (s : State) : Host.Outcome State Fault Refusal :=
  .next (compareRegister .a (.mem (.zp zp8)) s)

/-- CMP $nn,X (R181, R106). -/
def execCmpZpx (zp8 : Byte) (s : State) : Host.Outcome State Fault Refusal :=
  .next (compareRegister .a (.mem (.zpx zp8)) s)

/-- CMP $nnnn (R181, R108). -/
def execCmpAbs (addr : Word) (s : State) : Host.Outcome State Fault Refusal :=
  .next (compareRegister .a (.mem (.abs addr)) s)

/-- CMP $nnnn,X (R181, R109). -/
def execCmpAbx (addr : Word) (s : State) : Host.Outcome State Fault Refusal :=
  .next (compareRegister .a (.mem (.abx addr)) s)

/-- CMP $nnnn,Y (R181, R110). -/
def execCmpAby (addr : Word) (s : State) : Host.Outcome State Fault Refusal :=
  .next (compareRegister .a (.mem (.aby addr)) s)

/-- CMP ($nn,X) (R181, R112). -/
def execCmpIzx (zp8 : Byte) (s : State) : Host.Outcome State Fault Refusal :=
  .next (compareRegister .a (.mem (.izx zp8)) s)

/-- CMP ($nn),Y (R181, R113). -/
def execCmpIzy (zp8 : Byte) (s : State) : Host.Outcome State Fault Refusal :=
  .next (compareRegister .a (.mem (.izy zp8)) s)

/-- CPX #$nn (R182, R104). -/
def execCpxImm (imm8 : Byte) (s : State) : Host.Outcome State Fault Refusal :=
  .next (compareRegister .x (.imm imm8) s)

/-- CPX $nn (R182, R105). -/
def execCpxZp (zp8 : Byte) (s : State) : Host.Outcome State Fault Refusal :=
  .next (compareRegister .x (.mem (.zp zp8)) s)

/-- CPX $nnnn (R182, R108). -/
def execCpxAbs (addr : Word) (s : State) : Host.Outcome State Fault Refusal :=
  .next (compareRegister .x (.mem (.abs addr)) s)

/-- CPY #$nn (R183, R104). -/
def execCpyImm (imm8 : Byte) (s : State) : Host.Outcome State Fault Refusal :=
  .next (compareRegister .y (.imm imm8) s)

/-- CPY $nn (R183, R105). -/
def execCpyZp (zp8 : Byte) (s : State) : Host.Outcome State Fault Refusal :=
  .next (compareRegister .y (.mem (.zp zp8)) s)

/-- CPY $nnnn (R183, R108). -/
def execCpyAbs (addr : Word) (s : State) : Host.Outcome State Fault Refusal :=
  .next (compareRegister .y (.mem (.abs addr)) s)

end Sys2Proof.Machine
end

