-- ==== Sys2Proof/Machine/Jump.lean ====
section
/-! DEFINITION. The meanings of JMP JSR RTS (47_jump_subroutine.md): one definition for each constructor of
Instr, over the shared operations. At the entry of each, PC is past the instruction's bytes (R23). -/

namespace Sys2Proof.Machine

/-- JMP: PC becomes the resolved address (R200). -/
def jumpTo (m : MemOperand) (s : State) : State :=
  let e := resolve m s
  e.state.setPc e.ea

/-- JSR: push the address of the instruction's last byte, high byte first, then jump (R201). -/
def jumpToSubroutine (addr : Word) (s : State) : State :=
  let ret := s.pc - 1
  (push8 (lowByte ret) (push8 (highByte ret) s)).setPc addr

/-- RTS: pull the low then the high byte; PC is the pulled address plus one (R202). -/
def returnFromSubroutine (s : State) : State :=
  let lo := pull8 s
  let hi := pull8 lo.2
  hi.2.setPc (joinBytes hi.1 lo.1 + 1)

/-- JMP $nnnn (R200, R108). -/
def execJmpAbs (addr : Word) (s : State) : Host.Outcome State Fault Refusal :=
  .next (jumpTo (.abs addr) s)

/-- JMP ($nnnn) (R200, R111). -/
def execJmpInd (ptr : Word) (s : State) : Host.Outcome State Fault Refusal :=
  .next (jumpTo (.ind ptr) s)

/-- JSR $nnnn (R201, R108). -/
def execJsr (addr : Word) (s : State) : Host.Outcome State Fault Refusal :=
  .next (jumpToSubroutine addr s)

/-- RTS (R202). -/
def execRts (s : State) : Host.Outcome State Fault Refusal :=
  .next (returnFromSubroutine s)

end Sys2Proof.Machine
end

