-- ==== Sys2Proof/Machine/Load.lean ====
section
/-! DEFINITION. The meanings of LDA LDX LDY STA STX STY TAX TAY TXA TYA TSX TXS (41_load_store_transfer.md): one definition for each constructor of
Instr, over the shared operations. At the entry of each, PC is past the instruction's bytes (R23). -/

namespace Sys2Proof.Machine

/-- A load: the operand byte into a register, then SetNZ of it (R130 to R133). -/
def loadInto (r : Reg) (src : Source) (s : State) : State :=
  let v := readSource src s
  (v.2.setReg r v.1).setP (setNZ v.1 v.2.p)

/-- A store: one write of a register at the effective address, no read of the target, no flag (R130, R134 to R136). -/
def storeFrom (r : Reg) (m : MemOperand) (s : State) : State :=
  let e := resolve m s
  busWrite e.ea (e.state.reg r) e.state

/-- A transfer that sets N and Z (R130, R137 to R141). -/
def transfer (src dst : Reg) (s : State) : State :=
  (s.setReg dst (s.reg src)).setP (setNZ (s.reg src) s.p)

/-- TXS: the stack pointer from X, no flag (R142). -/
def transferXToS (s : State) : State := s.setReg .sp s.x

/-- LDA #$nn (R131, R104). -/
def execLdaImm (imm8 : Byte) (s : State) : Host.Outcome State Fault Refusal :=
  .next (loadInto .a (.imm imm8) s)

/-- LDA $nn (R131, R105). -/
def execLdaZp (zp8 : Byte) (s : State) : Host.Outcome State Fault Refusal :=
  .next (loadInto .a (.mem (.zp zp8)) s)

/-- LDA $nn,X (R131, R106). -/
def execLdaZpx (zp8 : Byte) (s : State) : Host.Outcome State Fault Refusal :=
  .next (loadInto .a (.mem (.zpx zp8)) s)

/-- LDA $nnnn (R131, R108). -/
def execLdaAbs (addr : Word) (s : State) : Host.Outcome State Fault Refusal :=
  .next (loadInto .a (.mem (.abs addr)) s)

/-- LDA $nnnn,X (R131, R109). -/
def execLdaAbx (addr : Word) (s : State) : Host.Outcome State Fault Refusal :=
  .next (loadInto .a (.mem (.abx addr)) s)

/-- LDA $nnnn,Y (R131, R110). -/
def execLdaAby (addr : Word) (s : State) : Host.Outcome State Fault Refusal :=
  .next (loadInto .a (.mem (.aby addr)) s)

/-- LDA ($nn,X) (R131, R112). -/
def execLdaIzx (zp8 : Byte) (s : State) : Host.Outcome State Fault Refusal :=
  .next (loadInto .a (.mem (.izx zp8)) s)

/-- LDA ($nn),Y (R131, R113). -/
def execLdaIzy (zp8 : Byte) (s : State) : Host.Outcome State Fault Refusal :=
  .next (loadInto .a (.mem (.izy zp8)) s)

/-- LDX #$nn (R132, R104). -/
def execLdxImm (imm8 : Byte) (s : State) : Host.Outcome State Fault Refusal :=
  .next (loadInto .x (.imm imm8) s)

/-- LDX $nn (R132, R105). -/
def execLdxZp (zp8 : Byte) (s : State) : Host.Outcome State Fault Refusal :=
  .next (loadInto .x (.mem (.zp zp8)) s)

/-- LDX $nn,Y (R132, R107). -/
def execLdxZpy (zp8 : Byte) (s : State) : Host.Outcome State Fault Refusal :=
  .next (loadInto .x (.mem (.zpy zp8)) s)

/-- LDX $nnnn (R132, R108). -/
def execLdxAbs (addr : Word) (s : State) : Host.Outcome State Fault Refusal :=
  .next (loadInto .x (.mem (.abs addr)) s)

/-- LDX $nnnn,Y (R132, R110). -/
def execLdxAby (addr : Word) (s : State) : Host.Outcome State Fault Refusal :=
  .next (loadInto .x (.mem (.aby addr)) s)

/-- LDY #$nn (R133, R104). -/
def execLdyImm (imm8 : Byte) (s : State) : Host.Outcome State Fault Refusal :=
  .next (loadInto .y (.imm imm8) s)

/-- LDY $nn (R133, R105). -/
def execLdyZp (zp8 : Byte) (s : State) : Host.Outcome State Fault Refusal :=
  .next (loadInto .y (.mem (.zp zp8)) s)

/-- LDY $nn,X (R133, R106). -/
def execLdyZpx (zp8 : Byte) (s : State) : Host.Outcome State Fault Refusal :=
  .next (loadInto .y (.mem (.zpx zp8)) s)

/-- LDY $nnnn (R133, R108). -/
def execLdyAbs (addr : Word) (s : State) : Host.Outcome State Fault Refusal :=
  .next (loadInto .y (.mem (.abs addr)) s)

/-- LDY $nnnn,X (R133, R109). -/
def execLdyAbx (addr : Word) (s : State) : Host.Outcome State Fault Refusal :=
  .next (loadInto .y (.mem (.abx addr)) s)

/-- STA $nn (R134, R105). -/
def execStaZp (zp8 : Byte) (s : State) : Host.Outcome State Fault Refusal :=
  .next (storeFrom .a (.zp zp8) s)

/-- STA $nn,X (R134, R106). -/
def execStaZpx (zp8 : Byte) (s : State) : Host.Outcome State Fault Refusal :=
  .next (storeFrom .a (.zpx zp8) s)

/-- STA $nnnn (R134, R108). -/
def execStaAbs (addr : Word) (s : State) : Host.Outcome State Fault Refusal :=
  .next (storeFrom .a (.abs addr) s)

/-- STA $nnnn,X (R134, R109). -/
def execStaAbx (addr : Word) (s : State) : Host.Outcome State Fault Refusal :=
  .next (storeFrom .a (.abx addr) s)

/-- STA $nnnn,Y (R134, R110). -/
def execStaAby (addr : Word) (s : State) : Host.Outcome State Fault Refusal :=
  .next (storeFrom .a (.aby addr) s)

/-- STA ($nn,X) (R134, R112). -/
def execStaIzx (zp8 : Byte) (s : State) : Host.Outcome State Fault Refusal :=
  .next (storeFrom .a (.izx zp8) s)

/-- STA ($nn),Y (R134, R113). -/
def execStaIzy (zp8 : Byte) (s : State) : Host.Outcome State Fault Refusal :=
  .next (storeFrom .a (.izy zp8) s)

/-- STX $nn (R135, R105). -/
def execStxZp (zp8 : Byte) (s : State) : Host.Outcome State Fault Refusal :=
  .next (storeFrom .x (.zp zp8) s)

/-- STX $nn,Y (R135, R107). -/
def execStxZpy (zp8 : Byte) (s : State) : Host.Outcome State Fault Refusal :=
  .next (storeFrom .x (.zpy zp8) s)

/-- STX $nnnn (R135, R108). -/
def execStxAbs (addr : Word) (s : State) : Host.Outcome State Fault Refusal :=
  .next (storeFrom .x (.abs addr) s)

/-- STY $nn (R136, R105). -/
def execStyZp (zp8 : Byte) (s : State) : Host.Outcome State Fault Refusal :=
  .next (storeFrom .y (.zp zp8) s)

/-- STY $nn,X (R136, R106). -/
def execStyZpx (zp8 : Byte) (s : State) : Host.Outcome State Fault Refusal :=
  .next (storeFrom .y (.zpx zp8) s)

/-- STY $nnnn (R136, R108). -/
def execStyAbs (addr : Word) (s : State) : Host.Outcome State Fault Refusal :=
  .next (storeFrom .y (.abs addr) s)

/-- TAX (R137). -/
def execTax (s : State) : Host.Outcome State Fault Refusal :=
  .next (transfer .a .x s)

/-- TAY (R138). -/
def execTay (s : State) : Host.Outcome State Fault Refusal :=
  .next (transfer .a .y s)

/-- TXA (R139). -/
def execTxa (s : State) : Host.Outcome State Fault Refusal :=
  .next (transfer .x .a s)

/-- TYA (R140). -/
def execTya (s : State) : Host.Outcome State Fault Refusal :=
  .next (transfer .y .a s)

/-- TSX (R141). -/
def execTsx (s : State) : Host.Outcome State Fault Refusal :=
  .next (transfer .sp .x s)

/-- TXS (R142). -/
def execTxs (s : State) : Host.Outcome State Fault Refusal :=
  .next (transferXToS s)

end Sys2Proof.Machine
end

