-- ==== Sys2Proof/Machine/Logical.lean ====
section
/-! DEFINITION. The meanings of AND ORA EOR BIT INC DEC INX INY DEX DEY (42_logical_incdec.md): one definition for each constructor of
Instr, over the shared operations. At the entry of each, PC is past the instruction's bytes (R23). -/

namespace Sys2Proof.Machine

/-- A logical operation of A with the operand byte, result in A, SetNZ of it (R149 to R152). -/
def logical (f : Byte → Byte → Byte) (src : Source) (s : State) : State :=
  let v := readSource src s
  let r := f v.2.a v.1
  (v.2.setReg .a r).setP (setNZ r v.2.p)

/-- BIT: Z from A and the operand, N and V from bits 7 and 6 of the operand (R153). -/
def bitTest (m : MemOperand) (s : State) : State :=
  let v := readSource (.mem m) s
  v.2.setP (bitFlags v.2.a v.1 v.2.p)

/-- An index register plus or minus one with its flags (R149, R156 to R159). -/
def stepRegister (f : Modifier) (r : Reg) (s : State) : State :=
  let v := f (s.reg r) s.p
  (s.setReg r v.1).setP v.2

/-- AND #$nn (R150, R104). -/
def execAndImm (imm8 : Byte) (s : State) : Host.Outcome State Fault Refusal :=
  .next (logical (fun a m => a &&& m) (.imm imm8) s)

/-- AND $nn (R150, R105). -/
def execAndZp (zp8 : Byte) (s : State) : Host.Outcome State Fault Refusal :=
  .next (logical (fun a m => a &&& m) (.mem (.zp zp8)) s)

/-- AND $nn,X (R150, R106). -/
def execAndZpx (zp8 : Byte) (s : State) : Host.Outcome State Fault Refusal :=
  .next (logical (fun a m => a &&& m) (.mem (.zpx zp8)) s)

/-- AND $nnnn (R150, R108). -/
def execAndAbs (addr : Word) (s : State) : Host.Outcome State Fault Refusal :=
  .next (logical (fun a m => a &&& m) (.mem (.abs addr)) s)

/-- AND $nnnn,X (R150, R109). -/
def execAndAbx (addr : Word) (s : State) : Host.Outcome State Fault Refusal :=
  .next (logical (fun a m => a &&& m) (.mem (.abx addr)) s)

/-- AND $nnnn,Y (R150, R110). -/
def execAndAby (addr : Word) (s : State) : Host.Outcome State Fault Refusal :=
  .next (logical (fun a m => a &&& m) (.mem (.aby addr)) s)

/-- AND ($nn,X) (R150, R112). -/
def execAndIzx (zp8 : Byte) (s : State) : Host.Outcome State Fault Refusal :=
  .next (logical (fun a m => a &&& m) (.mem (.izx zp8)) s)

/-- AND ($nn),Y (R150, R113). -/
def execAndIzy (zp8 : Byte) (s : State) : Host.Outcome State Fault Refusal :=
  .next (logical (fun a m => a &&& m) (.mem (.izy zp8)) s)

/-- ORA #$nn (R151, R104). -/
def execOraImm (imm8 : Byte) (s : State) : Host.Outcome State Fault Refusal :=
  .next (logical (fun a m => a ||| m) (.imm imm8) s)

/-- ORA $nn (R151, R105). -/
def execOraZp (zp8 : Byte) (s : State) : Host.Outcome State Fault Refusal :=
  .next (logical (fun a m => a ||| m) (.mem (.zp zp8)) s)

/-- ORA $nn,X (R151, R106). -/
def execOraZpx (zp8 : Byte) (s : State) : Host.Outcome State Fault Refusal :=
  .next (logical (fun a m => a ||| m) (.mem (.zpx zp8)) s)

/-- ORA $nnnn (R151, R108). -/
def execOraAbs (addr : Word) (s : State) : Host.Outcome State Fault Refusal :=
  .next (logical (fun a m => a ||| m) (.mem (.abs addr)) s)

/-- ORA $nnnn,X (R151, R109). -/
def execOraAbx (addr : Word) (s : State) : Host.Outcome State Fault Refusal :=
  .next (logical (fun a m => a ||| m) (.mem (.abx addr)) s)

/-- ORA $nnnn,Y (R151, R110). -/
def execOraAby (addr : Word) (s : State) : Host.Outcome State Fault Refusal :=
  .next (logical (fun a m => a ||| m) (.mem (.aby addr)) s)

/-- ORA ($nn,X) (R151, R112). -/
def execOraIzx (zp8 : Byte) (s : State) : Host.Outcome State Fault Refusal :=
  .next (logical (fun a m => a ||| m) (.mem (.izx zp8)) s)

/-- ORA ($nn),Y (R151, R113). -/
def execOraIzy (zp8 : Byte) (s : State) : Host.Outcome State Fault Refusal :=
  .next (logical (fun a m => a ||| m) (.mem (.izy zp8)) s)

/-- EOR #$nn (R152, R104). -/
def execEorImm (imm8 : Byte) (s : State) : Host.Outcome State Fault Refusal :=
  .next (logical (fun a m => a ^^^ m) (.imm imm8) s)

/-- EOR $nn (R152, R105). -/
def execEorZp (zp8 : Byte) (s : State) : Host.Outcome State Fault Refusal :=
  .next (logical (fun a m => a ^^^ m) (.mem (.zp zp8)) s)

/-- EOR $nn,X (R152, R106). -/
def execEorZpx (zp8 : Byte) (s : State) : Host.Outcome State Fault Refusal :=
  .next (logical (fun a m => a ^^^ m) (.mem (.zpx zp8)) s)

/-- EOR $nnnn (R152, R108). -/
def execEorAbs (addr : Word) (s : State) : Host.Outcome State Fault Refusal :=
  .next (logical (fun a m => a ^^^ m) (.mem (.abs addr)) s)

/-- EOR $nnnn,X (R152, R109). -/
def execEorAbx (addr : Word) (s : State) : Host.Outcome State Fault Refusal :=
  .next (logical (fun a m => a ^^^ m) (.mem (.abx addr)) s)

/-- EOR $nnnn,Y (R152, R110). -/
def execEorAby (addr : Word) (s : State) : Host.Outcome State Fault Refusal :=
  .next (logical (fun a m => a ^^^ m) (.mem (.aby addr)) s)

/-- EOR ($nn,X) (R152, R112). -/
def execEorIzx (zp8 : Byte) (s : State) : Host.Outcome State Fault Refusal :=
  .next (logical (fun a m => a ^^^ m) (.mem (.izx zp8)) s)

/-- EOR ($nn),Y (R152, R113). -/
def execEorIzy (zp8 : Byte) (s : State) : Host.Outcome State Fault Refusal :=
  .next (logical (fun a m => a ^^^ m) (.mem (.izy zp8)) s)

/-- BIT $nn (R153, R105). -/
def execBitZp (zp8 : Byte) (s : State) : Host.Outcome State Fault Refusal :=
  .next (bitTest (.zp zp8) s)

/-- BIT $nnnn (R153, R108). -/
def execBitAbs (addr : Word) (s : State) : Host.Outcome State Fault Refusal :=
  .next (bitTest (.abs addr) s)

/-- INC $nn (R154, R105). -/
def execIncZp (zp8 : Byte) (s : State) : Host.Outcome State Fault Refusal :=
  .next (readModifyWrite increment (.mem (.zp zp8)) s)

/-- INC $nn,X (R154, R106). -/
def execIncZpx (zp8 : Byte) (s : State) : Host.Outcome State Fault Refusal :=
  .next (readModifyWrite increment (.mem (.zpx zp8)) s)

/-- INC $nnnn (R154, R108). -/
def execIncAbs (addr : Word) (s : State) : Host.Outcome State Fault Refusal :=
  .next (readModifyWrite increment (.mem (.abs addr)) s)

/-- INC $nnnn,X (R154, R109). -/
def execIncAbx (addr : Word) (s : State) : Host.Outcome State Fault Refusal :=
  .next (readModifyWrite increment (.mem (.abx addr)) s)

/-- DEC $nn (R155, R105). -/
def execDecZp (zp8 : Byte) (s : State) : Host.Outcome State Fault Refusal :=
  .next (readModifyWrite decrement (.mem (.zp zp8)) s)

/-- DEC $nn,X (R155, R106). -/
def execDecZpx (zp8 : Byte) (s : State) : Host.Outcome State Fault Refusal :=
  .next (readModifyWrite decrement (.mem (.zpx zp8)) s)

/-- DEC $nnnn (R155, R108). -/
def execDecAbs (addr : Word) (s : State) : Host.Outcome State Fault Refusal :=
  .next (readModifyWrite decrement (.mem (.abs addr)) s)

/-- DEC $nnnn,X (R155, R109). -/
def execDecAbx (addr : Word) (s : State) : Host.Outcome State Fault Refusal :=
  .next (readModifyWrite decrement (.mem (.abx addr)) s)

/-- INX (R156). -/
def execInx (s : State) : Host.Outcome State Fault Refusal :=
  .next (stepRegister increment .x s)

/-- INY (R157). -/
def execIny (s : State) : Host.Outcome State Fault Refusal :=
  .next (stepRegister increment .y s)

/-- DEX (R158). -/
def execDex (s : State) : Host.Outcome State Fault Refusal :=
  .next (stepRegister decrement .x s)

/-- DEY (R159). -/
def execDey (s : State) : Host.Outcome State Fault Refusal :=
  .next (stepRegister decrement .y s)

end Sys2Proof.Machine
end

