-- ==== Sys2Proof/Machine/Shift.lean ====
section
/-! DEFINITION. The meanings of ASL LSR ROL ROR (44_shift_rotate.md): one definition for each constructor of
Instr, over the shared operations. At the entry of each, PC is past the instruction's bytes (R23). -/

namespace Sys2Proof.Machine

/-- ASL A (R171, R103). -/
def execAslAcc (s : State) : Host.Outcome State Fault Refusal :=
  .next (readModifyWrite shiftLeft .acc s)

/-- ASL $nn (R171, R105). -/
def execAslZp (zp8 : Byte) (s : State) : Host.Outcome State Fault Refusal :=
  .next (readModifyWrite shiftLeft (.mem (.zp zp8)) s)

/-- ASL $nn,X (R171, R106). -/
def execAslZpx (zp8 : Byte) (s : State) : Host.Outcome State Fault Refusal :=
  .next (readModifyWrite shiftLeft (.mem (.zpx zp8)) s)

/-- ASL $nnnn (R171, R108). -/
def execAslAbs (addr : Word) (s : State) : Host.Outcome State Fault Refusal :=
  .next (readModifyWrite shiftLeft (.mem (.abs addr)) s)

/-- ASL $nnnn,X (R171, R109). -/
def execAslAbx (addr : Word) (s : State) : Host.Outcome State Fault Refusal :=
  .next (readModifyWrite shiftLeft (.mem (.abx addr)) s)

/-- LSR A (R172, R103). -/
def execLsrAcc (s : State) : Host.Outcome State Fault Refusal :=
  .next (readModifyWrite shiftRight .acc s)

/-- LSR $nn (R172, R105). -/
def execLsrZp (zp8 : Byte) (s : State) : Host.Outcome State Fault Refusal :=
  .next (readModifyWrite shiftRight (.mem (.zp zp8)) s)

/-- LSR $nn,X (R172, R106). -/
def execLsrZpx (zp8 : Byte) (s : State) : Host.Outcome State Fault Refusal :=
  .next (readModifyWrite shiftRight (.mem (.zpx zp8)) s)

/-- LSR $nnnn (R172, R108). -/
def execLsrAbs (addr : Word) (s : State) : Host.Outcome State Fault Refusal :=
  .next (readModifyWrite shiftRight (.mem (.abs addr)) s)

/-- LSR $nnnn,X (R172, R109). -/
def execLsrAbx (addr : Word) (s : State) : Host.Outcome State Fault Refusal :=
  .next (readModifyWrite shiftRight (.mem (.abx addr)) s)

/-- ROL A (R173, R103). -/
def execRolAcc (s : State) : Host.Outcome State Fault Refusal :=
  .next (readModifyWrite rotateLeft .acc s)

/-- ROL $nn (R173, R105). -/
def execRolZp (zp8 : Byte) (s : State) : Host.Outcome State Fault Refusal :=
  .next (readModifyWrite rotateLeft (.mem (.zp zp8)) s)

/-- ROL $nn,X (R173, R106). -/
def execRolZpx (zp8 : Byte) (s : State) : Host.Outcome State Fault Refusal :=
  .next (readModifyWrite rotateLeft (.mem (.zpx zp8)) s)

/-- ROL $nnnn (R173, R108). -/
def execRolAbs (addr : Word) (s : State) : Host.Outcome State Fault Refusal :=
  .next (readModifyWrite rotateLeft (.mem (.abs addr)) s)

/-- ROL $nnnn,X (R173, R109). -/
def execRolAbx (addr : Word) (s : State) : Host.Outcome State Fault Refusal :=
  .next (readModifyWrite rotateLeft (.mem (.abx addr)) s)

/-- ROR A (R174, R103). -/
def execRorAcc (s : State) : Host.Outcome State Fault Refusal :=
  .next (readModifyWrite rotateRight .acc s)

/-- ROR $nn (R174, R105). -/
def execRorZp (zp8 : Byte) (s : State) : Host.Outcome State Fault Refusal :=
  .next (readModifyWrite rotateRight (.mem (.zp zp8)) s)

/-- ROR $nn,X (R174, R106). -/
def execRorZpx (zp8 : Byte) (s : State) : Host.Outcome State Fault Refusal :=
  .next (readModifyWrite rotateRight (.mem (.zpx zp8)) s)

/-- ROR $nnnn (R174, R108). -/
def execRorAbs (addr : Word) (s : State) : Host.Outcome State Fault Refusal :=
  .next (readModifyWrite rotateRight (.mem (.abs addr)) s)

/-- ROR $nnnn,X (R174, R109). -/
def execRorAbx (addr : Word) (s : State) : Host.Outcome State Fault Refusal :=
  .next (readModifyWrite rotateRight (.mem (.abx addr)) s)

end Sys2Proof.Machine
end

