-- ==== Sys2Proof/Machine/Stack.lean ====
section
/-! DEFINITION. The meanings of PHA PHP PLA PLP (48_stack.md): one definition for each constructor of
Instr, over the shared operations. At the entry of each, PC is past the instruction's bytes (R23). -/

namespace Sys2Proof.Machine

/-- PHA (R212). -/
def pushAccumulator (s : State) : State := push8 s.a s

/-- PHP: the status image with bits 5 and 4 set; the stored flags stay (R213, R32). -/
def pushStatus (s : State) : State := push8 (statusByte true s.p) s

/-- PLA: A from the stack, SetNZ of it (R214). -/
def pullAccumulator (s : State) : State :=
  let v := pull8 s
  (v.2.setReg .a v.1).setP (setNZ v.1 v.2.p)

/-- PLP: all seven stored flags from the pulled byte, bit 5 ignored (R215). -/
def pullStatus (s : State) : State :=
  let v := pull8 s
  v.2.setP (statusOfByte v.1)

/-- PHA (R212). -/
def execPha (s : State) : Host.Outcome State Fault Refusal :=
  .next (pushAccumulator s)

/-- PHP (R213). -/
def execPhp (s : State) : Host.Outcome State Fault Refusal :=
  .next (pushStatus s)

/-- PLA (R214). -/
def execPla (s : State) : Host.Outcome State Fault Refusal :=
  .next (pullAccumulator s)

/-- PLP (R215). -/
def execPlp (s : State) : Host.Outcome State Fault Refusal :=
  .next (pullStatus s)

end Sys2Proof.Machine
end

