-- ==== Sys2Proof/Machine/System.lean ====
section
/-! DEFINITION. The meanings of BRK RTI CLC CLD CLI CLV SEC SED SEI NOP (49_system_flags.md): one definition for each constructor of
Instr, over the shared operations. At the entry of each, PC is past the instruction's bytes (R23). -/

namespace Sys2Proof.Machine

/-- BRK: the shared interrupt entry with bit 4 of the pushed status set, the return address past the padding byte, and the
IRQ/BRK vector (R220). At its entry PC is the padding byte's address. -/
def softwareInterrupt (s : State) : State := takeInterrupt true (s.pc + 1) Config.irqVector s

/-- BRK (R220). -/
def execBrk (s : State) : Host.Outcome State Fault Refusal :=
  .next (softwareInterrupt s)

/-- RTI (R221). -/
def execRti (s : State) : Host.Outcome State Fault Refusal :=
  .next (returnFromInterrupt s)

/-- CLC (R222). -/
def execClc (s : State) : Host.Outcome State Fault Refusal :=
  .next (s.setP { s.p with c := false })

/-- CLD (R223). -/
def execCld (s : State) : Host.Outcome State Fault Refusal :=
  .next (s.setP { s.p with d := false })

/-- CLI (R224). -/
def execCli (s : State) : Host.Outcome State Fault Refusal :=
  .next (s.setP { s.p with i := false })

/-- CLV (R225). -/
def execClv (s : State) : Host.Outcome State Fault Refusal :=
  .next (s.setP { s.p with v := false })

/-- SEC (R226). -/
def execSec (s : State) : Host.Outcome State Fault Refusal :=
  .next (s.setP { s.p with c := true })

/-- SED (R227). -/
def execSed (s : State) : Host.Outcome State Fault Refusal :=
  .next (s.setP { s.p with d := true })

/-- SEI (R228). -/
def execSei (s : State) : Host.Outcome State Fault Refusal :=
  .next (s.setP { s.p with i := true })

/-- NOP (R229). -/
def execNop (s : State) : Host.Outcome State Fault Refusal :=
  .next s

end Sys2Proof.Machine
end

