-- ==== Sys2Proof/Machine/Dispatch.lean ====
section
/-! DEFINITION. The dispatch: one arm per constructor of Instr, each one direct call of its meaning. -/

namespace Sys2Proof.Machine

/-- The effect of an instruction whose bytes have been fetched (R23, R59). -/
def exec (i : Instr) (s : State) : Host.Outcome State Fault Refusal :=
  match i with
  | .ldaImm imm8 => Sys2Proof.Machine.execLdaImm imm8 s
  | .ldaZp zp8 => Sys2Proof.Machine.execLdaZp zp8 s
  | .ldaZpx zp8 => Sys2Proof.Machine.execLdaZpx zp8 s
  | .ldaAbs addr => Sys2Proof.Machine.execLdaAbs addr s
  | .ldaAbx addr => Sys2Proof.Machine.execLdaAbx addr s
  | .ldaAby addr => Sys2Proof.Machine.execLdaAby addr s
  | .ldaIzx zp8 => Sys2Proof.Machine.execLdaIzx zp8 s
  | .ldaIzy zp8 => Sys2Proof.Machine.execLdaIzy zp8 s
  | .ldxImm imm8 => Sys2Proof.Machine.execLdxImm imm8 s
  | .ldxZp zp8 => Sys2Proof.Machine.execLdxZp zp8 s
  | .ldxZpy zp8 => Sys2Proof.Machine.execLdxZpy zp8 s
  | .ldxAbs addr => Sys2Proof.Machine.execLdxAbs addr s
  | .ldxAby addr => Sys2Proof.Machine.execLdxAby addr s
  | .ldyImm imm8 => Sys2Proof.Machine.execLdyImm imm8 s
  | .ldyZp zp8 => Sys2Proof.Machine.execLdyZp zp8 s
  | .ldyZpx zp8 => Sys2Proof.Machine.execLdyZpx zp8 s
  | .ldyAbs addr => Sys2Proof.Machine.execLdyAbs addr s
  | .ldyAbx addr => Sys2Proof.Machine.execLdyAbx addr s
  | .staZp zp8 => Sys2Proof.Machine.execStaZp zp8 s
  | .staZpx zp8 => Sys2Proof.Machine.execStaZpx zp8 s
  | .staAbs addr => Sys2Proof.Machine.execStaAbs addr s
  | .staAbx addr => Sys2Proof.Machine.execStaAbx addr s
  | .staAby addr => Sys2Proof.Machine.execStaAby addr s
  | .staIzx zp8 => Sys2Proof.Machine.execStaIzx zp8 s
  | .staIzy zp8 => Sys2Proof.Machine.execStaIzy zp8 s
  | .stxZp zp8 => Sys2Proof.Machine.execStxZp zp8 s
  | .stxZpy zp8 => Sys2Proof.Machine.execStxZpy zp8 s
  | .stxAbs addr => Sys2Proof.Machine.execStxAbs addr s
  | .styZp zp8 => Sys2Proof.Machine.execStyZp zp8 s
  | .styZpx zp8 => Sys2Proof.Machine.execStyZpx zp8 s
  | .styAbs addr => Sys2Proof.Machine.execStyAbs addr s
  | .tax => Sys2Proof.Machine.execTax s
  | .tay => Sys2Proof.Machine.execTay s
  | .txa => Sys2Proof.Machine.execTxa s
  | .tya => Sys2Proof.Machine.execTya s
  | .tsx => Sys2Proof.Machine.execTsx s
  | .txs => Sys2Proof.Machine.execTxs s
  | .andImm imm8 => Sys2Proof.Machine.execAndImm imm8 s
  | .andZp zp8 => Sys2Proof.Machine.execAndZp zp8 s
  | .andZpx zp8 => Sys2Proof.Machine.execAndZpx zp8 s
  | .andAbs addr => Sys2Proof.Machine.execAndAbs addr s
  | .andAbx addr => Sys2Proof.Machine.execAndAbx addr s
  | .andAby addr => Sys2Proof.Machine.execAndAby addr s
  | .andIzx zp8 => Sys2Proof.Machine.execAndIzx zp8 s
  | .andIzy zp8 => Sys2Proof.Machine.execAndIzy zp8 s
  | .oraImm imm8 => Sys2Proof.Machine.execOraImm imm8 s
  | .oraZp zp8 => Sys2Proof.Machine.execOraZp zp8 s
  | .oraZpx zp8 => Sys2Proof.Machine.execOraZpx zp8 s
  | .oraAbs addr => Sys2Proof.Machine.execOraAbs addr s
  | .oraAbx addr => Sys2Proof.Machine.execOraAbx addr s
  | .oraAby addr => Sys2Proof.Machine.execOraAby addr s
  | .oraIzx zp8 => Sys2Proof.Machine.execOraIzx zp8 s
  | .oraIzy zp8 => Sys2Proof.Machine.execOraIzy zp8 s
  | .eorImm imm8 => Sys2Proof.Machine.execEorImm imm8 s
  | .eorZp zp8 => Sys2Proof.Machine.execEorZp zp8 s
  | .eorZpx zp8 => Sys2Proof.Machine.execEorZpx zp8 s
  | .eorAbs addr => Sys2Proof.Machine.execEorAbs addr s
  | .eorAbx addr => Sys2Proof.Machine.execEorAbx addr s
  | .eorAby addr => Sys2Proof.Machine.execEorAby addr s
  | .eorIzx zp8 => Sys2Proof.Machine.execEorIzx zp8 s
  | .eorIzy zp8 => Sys2Proof.Machine.execEorIzy zp8 s
  | .bitZp zp8 => Sys2Proof.Machine.execBitZp zp8 s
  | .bitAbs addr => Sys2Proof.Machine.execBitAbs addr s
  | .incZp zp8 => Sys2Proof.Machine.execIncZp zp8 s
  | .incZpx zp8 => Sys2Proof.Machine.execIncZpx zp8 s
  | .incAbs addr => Sys2Proof.Machine.execIncAbs addr s
  | .incAbx addr => Sys2Proof.Machine.execIncAbx addr s
  | .decZp zp8 => Sys2Proof.Machine.execDecZp zp8 s
  | .decZpx zp8 => Sys2Proof.Machine.execDecZpx zp8 s
  | .decAbs addr => Sys2Proof.Machine.execDecAbs addr s
  | .decAbx addr => Sys2Proof.Machine.execDecAbx addr s
  | .inx => Sys2Proof.Machine.execInx s
  | .iny => Sys2Proof.Machine.execIny s
  | .dex => Sys2Proof.Machine.execDex s
  | .dey => Sys2Proof.Machine.execDey s
  | .adcImm imm8 => Sys2Proof.Machine.execAdcImm imm8 s
  | .adcZp zp8 => Sys2Proof.Machine.execAdcZp zp8 s
  | .adcZpx zp8 => Sys2Proof.Machine.execAdcZpx zp8 s
  | .adcAbs addr => Sys2Proof.Machine.execAdcAbs addr s
  | .adcAbx addr => Sys2Proof.Machine.execAdcAbx addr s
  | .adcAby addr => Sys2Proof.Machine.execAdcAby addr s
  | .adcIzx zp8 => Sys2Proof.Machine.execAdcIzx zp8 s
  | .adcIzy zp8 => Sys2Proof.Machine.execAdcIzy zp8 s
  | .sbcImm imm8 => Sys2Proof.Machine.execSbcImm imm8 s
  | .sbcZp zp8 => Sys2Proof.Machine.execSbcZp zp8 s
  | .sbcZpx zp8 => Sys2Proof.Machine.execSbcZpx zp8 s
  | .sbcAbs addr => Sys2Proof.Machine.execSbcAbs addr s
  | .sbcAbx addr => Sys2Proof.Machine.execSbcAbx addr s
  | .sbcAby addr => Sys2Proof.Machine.execSbcAby addr s
  | .sbcIzx zp8 => Sys2Proof.Machine.execSbcIzx zp8 s
  | .sbcIzy zp8 => Sys2Proof.Machine.execSbcIzy zp8 s
  | .aslAcc => Sys2Proof.Machine.execAslAcc s
  | .aslZp zp8 => Sys2Proof.Machine.execAslZp zp8 s
  | .aslZpx zp8 => Sys2Proof.Machine.execAslZpx zp8 s
  | .aslAbs addr => Sys2Proof.Machine.execAslAbs addr s
  | .aslAbx addr => Sys2Proof.Machine.execAslAbx addr s
  | .lsrAcc => Sys2Proof.Machine.execLsrAcc s
  | .lsrZp zp8 => Sys2Proof.Machine.execLsrZp zp8 s
  | .lsrZpx zp8 => Sys2Proof.Machine.execLsrZpx zp8 s
  | .lsrAbs addr => Sys2Proof.Machine.execLsrAbs addr s
  | .lsrAbx addr => Sys2Proof.Machine.execLsrAbx addr s
  | .rolAcc => Sys2Proof.Machine.execRolAcc s
  | .rolZp zp8 => Sys2Proof.Machine.execRolZp zp8 s
  | .rolZpx zp8 => Sys2Proof.Machine.execRolZpx zp8 s
  | .rolAbs addr => Sys2Proof.Machine.execRolAbs addr s
  | .rolAbx addr => Sys2Proof.Machine.execRolAbx addr s
  | .rorAcc => Sys2Proof.Machine.execRorAcc s
  | .rorZp zp8 => Sys2Proof.Machine.execRorZp zp8 s
  | .rorZpx zp8 => Sys2Proof.Machine.execRorZpx zp8 s
  | .rorAbs addr => Sys2Proof.Machine.execRorAbs addr s
  | .rorAbx addr => Sys2Proof.Machine.execRorAbx addr s
  | .cmpImm imm8 => Sys2Proof.Machine.execCmpImm imm8 s
  | .cmpZp zp8 => Sys2Proof.Machine.execCmpZp zp8 s
  | .cmpZpx zp8 => Sys2Proof.Machine.execCmpZpx zp8 s
  | .cmpAbs addr => Sys2Proof.Machine.execCmpAbs addr s
  | .cmpAbx addr => Sys2Proof.Machine.execCmpAbx addr s
  | .cmpAby addr => Sys2Proof.Machine.execCmpAby addr s
  | .cmpIzx zp8 => Sys2Proof.Machine.execCmpIzx zp8 s
  | .cmpIzy zp8 => Sys2Proof.Machine.execCmpIzy zp8 s
  | .cpxImm imm8 => Sys2Proof.Machine.execCpxImm imm8 s
  | .cpxZp zp8 => Sys2Proof.Machine.execCpxZp zp8 s
  | .cpxAbs addr => Sys2Proof.Machine.execCpxAbs addr s
  | .cpyImm imm8 => Sys2Proof.Machine.execCpyImm imm8 s
  | .cpyZp zp8 => Sys2Proof.Machine.execCpyZp zp8 s
  | .cpyAbs addr => Sys2Proof.Machine.execCpyAbs addr s
  | .bcc rel8 => Sys2Proof.Machine.execBcc rel8 s
  | .bcs rel8 => Sys2Proof.Machine.execBcs rel8 s
  | .beq rel8 => Sys2Proof.Machine.execBeq rel8 s
  | .bne rel8 => Sys2Proof.Machine.execBne rel8 s
  | .bmi rel8 => Sys2Proof.Machine.execBmi rel8 s
  | .bpl rel8 => Sys2Proof.Machine.execBpl rel8 s
  | .bvc rel8 => Sys2Proof.Machine.execBvc rel8 s
  | .bvs rel8 => Sys2Proof.Machine.execBvs rel8 s
  | .jmpAbs addr => Sys2Proof.Machine.execJmpAbs addr s
  | .jmpInd ptr => Sys2Proof.Machine.execJmpInd ptr s
  | .jsr addr => Sys2Proof.Machine.execJsr addr s
  | .rts => Sys2Proof.Machine.execRts s
  | .pha => Sys2Proof.Machine.execPha s
  | .php => Sys2Proof.Machine.execPhp s
  | .pla => Sys2Proof.Machine.execPla s
  | .plp => Sys2Proof.Machine.execPlp s
  | .brk => Sys2Proof.Machine.execBrk s
  | .rti => Sys2Proof.Machine.execRti s
  | .clc => Sys2Proof.Machine.execClc s
  | .cld => Sys2Proof.Machine.execCld s
  | .cli => Sys2Proof.Machine.execCli s
  | .clv => Sys2Proof.Machine.execClv s
  | .sec => Sys2Proof.Machine.execSec s
  | .sed => Sys2Proof.Machine.execSed s
  | .sei => Sys2Proof.Machine.execSei s
  | .nop => Sys2Proof.Machine.execNop s

end Sys2Proof.Machine
end

