-- ==== Sys2Proof/Machine/Transition.lean ====
section
/-! DEFINITION. The boundary logic (60_exceptions.md R244, R245) and the four kinds of transition: RESET sequence, NMI entry, IRQ
entry, one instruction (fetch, decode, resolve, execute). -/

namespace Sys2Proof.Machine

/-- A boundary at which nothing is presented. -/
def quietBoundary : Boundary := ⟨false, false, false, []⟩

/-- The boundary the next transition samples; after the last one listed nothing is presented (notes/assumptions/4.md). -/
def currentBoundary (s : State) : Boundary :=
  match s.inputs with
  | [] => quietBoundary
  | b :: _ => b

/-- The state a transition starts from: its boundary consumed, the host's changes made (R64; notes/assumptions/5.md), the outputs of the transition before
cleared. -/
def beginTransition (s : State) : State :=
  { s with
    mem := applyHostWrites (currentBoundary s).hostWrites s.mem
    inputs := s.inputs.tail
    bus := []
    cycles := none }

/-- The four kinds of transition (R7, R245). -/
inductive TransitionKind where
  | reset | nmi | irq | instruction
deriving DecidableEq, Repr

/-- Choosing the transition: reset over nmi over irq, irq only with I clear (R245). -/
def chooseTransition (b : Boundary) (iFlag : Bool) : TransitionKind :=
  if b.reset then .reset
  else if b.nmi then .nmi
  else if b.irq && !iFlag then .irq
  else .instruction

/-- The RESET transition and its cycle report (R270, R284). -/
def resetTransition (s : State) : State := (resetSequence s).setCycles (some s.cycleTable.resetSequence)

/-- An IRQ or NMI entry: PC itself is the return address and bit 4 of the pushed status is 0 (R248), with its cycle
report (R284). -/
def interruptTransition (vector : Word) (s : State) : State :=
  (takeInterrupt false s.pc vector s).setCycles (some s.cycleTable.interruptEntry)

/-- What fetching an instruction answers. -/
inductive Fetched where
  /-- The instruction, PC past its bytes. -/
  | instr (i : Instr) (s : State)
  /-- The opcode byte has no descriptor; PC is past that byte (R241). -/
  | invalid (b : Byte) (s : State)
deriving DecidableEq, Repr

/-- Fetch and decode one instruction: the opcode byte, then the operand bytes its descriptor asks for, low byte first (R92,
R59). -/
def fetchInstruction (s : State) : Fetched :=
  let op := fetch8 s
  match dispatchTable op.1 with
  | none => .invalid op.1 op.2
  | some (.bare i) => .instr i op.2
  | some (.byte f) =>
    let b := fetch8 op.2
    .instr (f b.1) b.2
  | some (.word f) =>
    let w := fetch16 op.2
    .instr (f w.1) w.2

/-- Put the cycle report of a transition beside its effect. -/
def withCycles (n : Nat) : Host.Outcome State Fault Refusal → Host.Outcome State Fault Refusal
  | .next s => .next (s.setCycles (some n))
  | .fault r => .fault r
  | .refused r => .refused r

/-- The instruction transition: fetch, decode, execute (R92), or the InvalidOpcode fault (R241). -/
def runInstruction (s : State) : Host.Outcome State Fault Refusal :=
  match fetchInstruction s with
  | .instr i t => withCycles (cycleReport i t) (exec i t)
  | .invalid b t => .fault (.invalidOpcode b t)

/-- Store bytes at successive addresses, modulo 65536. -/
def placeBytes : List Byte → Word → Memory → Memory
  | [], _, m => m
  | b :: rest, a, m => placeBytes rest (a + 1) (Memory.write m a.toNat b)

/-- Present nothing at the next boundary. -/
def quietNext : List Boundary → List Boundary
  | [] => []
  | _ :: rest => quietBoundary :: rest

/-- Let the next `n` accesses be answered by memory. -/
def ramNext : Nat → List Response → List Response
  | 0, l => l
  | _ + 1, [] => []
  | n + 1, _ :: rest => .ram :: ramNext n rest

/-- How many bytes the fetch of these bytes consumes (R80, R241). -/
def fetchLength (bytes : List Byte) : Nat :=
  match decode bytes with
  | .instr i _ => i.format.length
  | .invalidOpcode _ => 1
  | .truncated => 0

/-- Bytes stored where the next instruction is fetched, with nothing presented at the next boundary and its fetches answered by
memory, so that the next transition is the instruction they hold (notes/assumptions/6.md). -/
def placeInstruction (bytes : List Byte) (s : State) : State :=
  { s with
    mem := placeBytes bytes s.pc s.mem
    inputs := quietNext s.inputs
    responses := ramNext (fetchLength bytes) s.responses }

end Sys2Proof.Machine
end

