-- ==== Sys2Proof/Machine/Step.lean ====
section
/-! DEFINITION. One step: exactly one of the four transitions (60_exceptions.md R245). -/

namespace Sys2Proof.Machine

/-- One transition of the machine (R7, R245). -/
def step (s : State) : Host.Outcome State Fault Refusal :=
  let t := beginTransition s
  match chooseTransition (currentBoundary s) t.p.i with
  | .reset => .next (resetTransition t)
  | .nmi => .next (interruptTransition Config.nmiVector t)
  | .irq => .next (interruptTransition Config.irqVector t)
  | .instruction => runInstruction t

/-- The state whose next step fetches and runs the instruction of `nbits` bits `w`, numbered as spec/opcode_table.json
numbers them. -/
def State.withFetchWord (s : State) (nbits w : Nat) : State := placeInstruction (tableWordBytes nbits w) s

end Sys2Proof.Machine
end

