-- ==== Sys2Proof/Safety.lean ====
section
/-! DEFINITION. What claims are stated in: the initial states (70_reset_and_hazards.md R273), the host's two policies after an
InvalidOpcode fault (60_exceptions.md R242, R243), runs and reachable states under them, safe runs, the model's invariant, and
the terms the statements use. -/

namespace Sys2Proof.Machine

/-- The initial states for program-level claims: I = 1, PC the content of the RESET vector, everything else arbitrary (R273);
memory is in canonical form. DESIGN CHOICE (notes/assumptions/14.md): the content of the vector is the two bytes memory holds there,
what plain RAM answers (R52). Where a device answers the vector reads R273 does not say what the content is, and the state such a
RESET leaves need not be Initial. -/
def State.Initial (s : State) : Prop :=
  s.p.i = true ∧ s.pc = joinBytes (peek s 0xFFFD#16) (peek s 0xFFFC#16) ∧ Memory.wf s.mem = true

/-- The invariant of the model: memory is in canonical form, every listed address inside the 64 KiB space. -/
def State.Inv (s : State) : Prop := Memory.wf s.mem = true

/-- The policy of a host that steps on after a fault, from the state the fault leaves (R242). -/
def stepOn (s : State) : Option State :=
  match step s with
  | .next t => some t
  | .fault (.invalidOpcode _ t) => some t
  | .refused _ => none

/-- The policy of a host that halts at a fault (R242, R243). -/
def stepHalting (s : State) : Option State :=
  match step s with
  | .next t => some t
  | .fault _ => none
  | .refused _ => none

/-- `n` transitions under a policy. -/
def runWith (policy : State → Option State) : Nat → State → Option State
  | 0, s => some s
  | n + 1, s =>
    match policy s with
    | some t => runWith policy n t
    | none => none

/-- The states a host that steps on after faults can see, from a given state. -/
inductive Reachable (start : State) : State → Prop where
  | start : Reachable start start
  | step {s t : State} : Reachable start s → stepOn s = some t → Reachable start t

/-- A run of `n` transitions is safe when none of them faults. -/
def SafeFor (n : Nat) (s : State) : Prop := ∃ t, runWith stepHalting n s = some t

/-- The 105 undefined opcode bytes, row by row as R88 lists them. -/
def undefinedOpcodes : List Nat :=
  [0x02, 0x03, 0x04, 0x07, 0x0B, 0x0C, 0x0F] ++
  [0x12, 0x13, 0x14, 0x17, 0x1A, 0x1B, 0x1C, 0x1F] ++
  [0x22, 0x23, 0x27, 0x2B, 0x2F] ++
  [0x32, 0x33, 0x34, 0x37, 0x3A, 0x3B, 0x3C, 0x3F] ++
  [0x42, 0x43, 0x44, 0x47, 0x4B, 0x4F] ++
  [0x52, 0x53, 0x54, 0x57, 0x5A, 0x5B, 0x5C, 0x5F] ++
  [0x62, 0x63, 0x64, 0x67, 0x6B, 0x6F] ++
  [0x72, 0x73, 0x74, 0x77, 0x7A, 0x7B, 0x7C, 0x7F] ++
  [0x80, 0x82, 0x83, 0x87, 0x89, 0x8B, 0x8F] ++
  [0x92, 0x93, 0x97, 0x9B, 0x9C, 0x9E, 0x9F] ++
  [0xA3, 0xA7, 0xAB, 0xAF] ++
  [0xB2, 0xB3, 0xB7, 0xBB, 0xBF] ++
  [0xC2, 0xC3, 0xC7, 0xCB, 0xCF] ++
  [0xD2, 0xD3, 0xD4, 0xD7, 0xDA, 0xDB, 0xDC, 0xDF] ++
  [0xE2, 0xE3, 0xE7, 0xEB, 0xEF] ++
  [0xF2, 0xF3, 0xF4, 0xF7, 0xFA, 0xFB, 0xFC, 0xFF]

/-- Exactly these (format, opcode byte) pairs encode an operation: the "Encodings" line of its rule and its row of R86. -/
def HasEncodings (op : Operation) (l : List (Format × Byte)) : Prop :=
  ∀ f b, (f, b) ∈ l ↔ ∃ i : Instr, i.operation = op ∧ i.format = f ∧ i.opcode = b

/-- The byte an operation that reads its operand works on (R101). -/
def operandByte (src : Source) (s : State) : Byte := (readSource src s).1

/-- The state after that operand has been read: `s` but for the memory port. -/
def afterOperand (src : Source) (s : State) : State := withPort s (readSource src s).2

/-- The addresses of the first `n` bytes at PC, in order (R59). -/
def fetchAddresses (s : State) (n : Nat) : List Word := (List.range n).map fun k => s.pc + BitVec.ofNat 16 k

/-- The three bytes memory holds at PC. -/
def bytesAtPc (s : State) : List Byte := [peek s s.pc, peek s (s.pc + 1), peek s (s.pc + 2)]

/-- The byte the opcode fetch of the next transition is answered. -/
def opcodeByte (s : State) : Byte := answer s.pc (beginTransition s)

/-- The environment is plain RAM from here on (R52). -/
def PlainRam (s : State) : Prop := ∀ r ∈ s.responses, r = .ram

/-- What a response changes in memory of its own. -/
def Response.changes : Response → List (Word × Byte)
  | .ram => []
  | .device _ changes => changes

/-- The environment changes no byte at that address of its own. -/
def EnvironmentLeaves (a : Word) (s : State) : Prop := ∀ r ∈ s.responses, ∀ c ∈ r.changes, c.1 ≠ a

/-- The next transition of `s` is an instruction (R245). -/
def RunsInstruction (s : State) : Prop := chooseTransition (currentBoundary s) s.p.i = .instruction

/-- The three bytes an entry pushes and where, in order (R220, R248). -/
def frameBytes (brk : Bool) (ret : Word) (s : State) : List (Word × Byte) :=
  [(stackAddress s.sp, highByte ret), (stackAddress (s.sp - 1#8), lowByte ret),
    (stackAddress (s.sp - 2#8), statusByte brk s.p)]

/-- What an operation that reads, modifies and writes its operand does, in its accumulator and in its memory forms: `result`
and `out` give the byte and the new C from the operand and the prior C (R170). -/
def ShiftEffect (op : Operation) (result : Byte → Bool → Byte) (out : Byte → Bool) : Prop :=
  ∀ (i : Instr) (s : State), i.operation = op →
    (i.operand = .acc ∧
      exec i s = .next
        { s with
          a := result s.a s.p.c
          p := { s.p with c := out s.a, z := result s.a s.p.c == 0#8, n := (result s.a s.p.c).getLsbD 7 } }) ∨
    ∃ m, i.operand = .mem m ∧
      exec i s = .next
        { withPort s (busWrite (resolve m s).ea (result (operandByte (.mem m) s) s.p.c) (afterOperand (.mem m) s)) with
          p :=
            { s.p with
              c := out (operandByte (.mem m) s)
              z := result (operandByte (.mem m) s) s.p.c == 0#8
              n := (result (operandByte (.mem m) s) s.p.c).getLsbD 7 } }

/-- The BCD encoding of a number below 100 (R12). -/
def bcd (x : Nat) : Byte := BitVec.ofNat 8 (x / 10 * 16 + x % 10)

/-- A state with the stored Break flag cleared (R32). -/
def dropBreak (s : State) : State := { s with p := { s.p with b := false } }

/-- An outcome with the stored Break flag cleared in the state it carries. -/
def dropBreakOutcome : Host.Outcome State Fault Refusal → Host.Outcome State Fault Refusal
  | .next s => .next (dropBreak s)
  | .fault (.invalidOpcode b s) => .fault (.invalidOpcode b (dropBreak s))
  | .refused r => .refused r

/-- An access without its byte: whether it is a write, and its address (R61). -/
def Access.place : Access → Bool × Word
  | .read a _ => (false, a)
  | .write a _ => (true, a)

/-- Reads at the given addresses, as places. -/
def readsAt (l : List Word) : List (Bool × Word) := l.map (false, ·)

/-- Writes at the given addresses, as places. -/
def writesAt (l : List Word) : List (Bool × Word) := l.map (true, ·)

/-- The effective address of an operand in memory, none for another operand. -/
def operandAddress (o : Operand) (s : State) : List Word :=
  match o with
  | .imp => []
  | .acc => []
  | .imm _ => []
  | .mem m => [(resolve m s).ea]

/-- The data, stack and vector accesses of an operation after its operand's address is known, in order: the operation's part of
the table of R61. -/
def operationAccesses (op : Operation) (o : Operand) (s : State) : List (Bool × Word) :=
  match op with
  | .lda | .ldx | .ldy | .and | .ora | .eor | .adc | .sbc | .cmp | .cpx | .cpy | .bit => readsAt (operandAddress o s)
  | .sta | .stx | .sty => writesAt (operandAddress o s)
  | .inc | .dec | .asl | .lsr | .rol | .ror => readsAt (operandAddress o s) ++ writesAt (operandAddress o s)
  | .pha | .php => writesAt [stackAddress s.sp]
  | .pla | .plp => readsAt [stackAddress (s.sp + 1#8)]
  | .jsr => writesAt [stackAddress s.sp, stackAddress (s.sp - 1#8)]
  | .rts => readsAt [stackAddress (s.sp + 1#8), stackAddress (s.sp + 2#8)]
  | .brk => writesAt [stackAddress s.sp, stackAddress (s.sp - 1#8), stackAddress (s.sp - 2#8)] ++ readsAt [0xFFFE#16, 0xFFFF#16]
  | .rti => readsAt [stackAddress (s.sp + 1#8), stackAddress (s.sp + 2#8), stackAddress (s.sp + 3#8)]
  | .bcc | .bcs | .beq | .bne | .bmi | .bpl | .bvc | .bvs | .jmp => []
  | .tax | .tay | .txa | .tya | .tsx | .txs | .inx | .iny | .dex | .dey => []
  | .clc | .cld | .cli | .clv | .sec | .sed | .sei | .nop => []

/-- The pointer reads of an operand, low byte first (R61, R111 to R113). -/
def pointerAccesses (o : Operand) (s : State) : List (Bool × Word) :=
  match o with
  | .mem (.ind ptr) => readsAt [ptr, (ptr &&& 0xFF00#16) ||| ((ptr + 1) &&& 0x00FF#16)]
  | .mem (.izx zp8) => readsAt [BitVec.ofNat 16 ((zp8.toNat + s.x.toNat) % 256), BitVec.ofNat 16 ((zp8.toNat + s.x.toNat + 1) % 256)]
  | .mem (.izy zp8) => readsAt [BitVec.ofNat 16 zp8.toNat, BitVec.ofNat 16 ((zp8.toNat + 1) % 256)]
  | .mem (.zp _) | .mem (.zpx _) | .mem (.zpy _) | .mem (.abs _) | .mem (.abx _) | .mem (.aby _) | .mem (.rel _) => []
  | .imp | .acc | .imm _ => []

/-- The accesses of an instruction after its own bytes, from the state its operation starts in (R61). -/
def accessesAfterFetch (i : Instr) (s : State) : List (Bool × Word) :=
  pointerAccesses i.operand s ++ operationAccesses i.operation i.operand s

end Sys2Proof.Machine
end

