-- ==== Sys2Proof/Certificates/Slice0/Obligations.lean ====
section
/-! DEFINITION. The statements for the provers, each formalising rules of spec/ that its docstring names. Conventions of all
of them: exec starts with PC past the instruction's bytes (R23, notes/assumptions/12.md); every access is answered by the
environment that `responses` lists, plain RAM where it lists nothing (R52, notes/assumptions/3.md), so that a statement without
PlainRam holds for every environment; memory has the canonical form of State.Inv (notes/assumptions/2.md); bus and cycles record
what the transition's ports show (notes/assumptions/9.md). -/

open Sys2Proof Sys2Proof.Machine

/-- Decoding the bytes of any instruction gives it back, and leaves the bytes after it (rules R80, R82, R83, R86,
R92). -/
def Obligations.DecodeOfEncodeIsTheInstruction : Prop :=
  ∀ (i : Instr) (rest : List Byte), decode (encode i ++ rest) = .instr i rest

/-- Encoding what was decoded gives the decoded bytes back: each byte sequence has one meaning (rules R80, R82, R85,
R92). -/
def Obligations.EncodeOfDecodeIsTheBytes : Prop :=
  ∀ (bytes : List Byte) (i : Instr) (rest : List Byte), decode bytes = .instr i rest → encode i ++ rest = bytes

/-- Each existing (operation, mode) pair has exactly one opcode byte, and only the listed pairs exist (rule R85). R85
is the spec's own inference from R86 (notes/assumptions/11.md). -/
def Obligations.EachPairHasExactlyOneOpcode : Prop :=
  (∀ i j : Instr, i.opcode = j.opcode ↔ i.descriptor = j.descriptor) ∧
  (∀ d : Descriptor, d.wellFormed = true ↔ ∃ i : Instr, i.descriptor = d) ∧
  (∀ i : Instr, i.descriptor ≠ ⟨.sta, .imm⟩ ∧ i.descriptor ≠ ⟨.ldx, .abx⟩ ∧ i.descriptor ≠ ⟨.jmp, .zp⟩)

/-- The 105 bytes of the list of R88, and no others, are undefined, and fetching one faults (rule R88). -/
def Obligations.UndefinedOpcodesFault : Prop :=
  (∀ b : Byte, (dispatchTable b).isNone = true ↔ b.toNat ∈ undefinedOpcodes) ∧
  undefinedOpcodes.length = 105 ∧
  (∀ b : Byte, b.toNat % 16 ∈ [3, 7, 0xB, 0xF] → b.toNat ∈ undefinedOpcodes) ∧
  (∀ s : State, RunsInstruction s → (opcodeByte s).toNat ∈ undefinedOpcodes →
    ∃ t, step s = .fault (.invalidOpcode (opcodeByte s) t))

/-- A few words written out from the encoding tables decode to the instructions they stand for (rules R82, R86). -/
def Obligations.WrittenOutWordsDecode : Prop :=
  decode [0xAD#8, 0x34#8, 0x12#8] = .instr (.ldaAbs 0x1234#16) [] ∧
  decode [0x31#8, 0x86#8] = .instr (.andIzy 0x86#8) [] ∧
  decode [0xE9#8, 0xB0#8] = .instr (.sbcImm 0xB0#8) [] ∧
  decode [0x6A#8] = .instr .rorAcc [] ∧
  decode [0xEC#8, 0x00#8, 0x03#8] = .instr (.cpxAbs 0x0300#16) [] ∧
  decode [0xD0#8, 0xF9#8] = .instr (.bne 0xF9#8) [] ∧
  decode [0x6C#8, 0xFF#8, 0x02#8] = .instr (.jmpInd 0x02FF#16) [] ∧
  decode [0x28#8, 0x02#8] = .instr .plp [0x02#8] ∧
  decode [0x00#8, 0xEA#8] = .instr .brk [0xEA#8] ∧
  decode [0x02#8, 0xFF#8] = .invalidOpcode 0x02#8

/-- When the bytes at PC decode to an instruction, a step is exec of it with PC past its bytes (rules R92, R23, R24,
R59). The bytes are fetched before exec runs (notes/assumptions/12.md). -/
def Obligations.StepRunsTheDecodedInstruction : Prop :=
  (∀ (s u : State) (i : Instr) (bytes : List Byte), RunsInstruction s → decode bytes = .instr i [] →
    portReads (fetchAddresses s i.format.length) (beginTransition s) = (bytes, u) →
    step s =
      withCycles (cycleReport i { u with pc := s.pc + BitVec.ofNat 16 i.format.length })
        (exec i { u with pc := s.pc + BitVec.ofNat 16 i.format.length })) ∧
  (∀ (s : State) (i : Instr) (rest : List Byte), RunsInstruction s →
    (∀ r ∈ s.responses.take i.format.length, r = .ram) → decode (bytesAtPc (beginTransition s)) = .instr i rest →
    step s =
      withCycles
        (cycleReport i
          { (portReads (fetchAddresses s i.format.length) (beginTransition s)).2 with
            pc := s.pc + BitVec.ofNat 16 i.format.length })
        (exec i
          { (portReads (fetchAddresses s i.format.length) (beginTransition s)).2 with
            pc := s.pc + BitVec.ofNat 16 i.format.length }))

/-- Reset over NMI over IRQ; IRQ only with I clear; otherwise one instruction (rule R245). The order of the inputs and
the entry as a transition of its own are the spec's decisions D6 and D16 (notes/assumptions/13.md); the list of
boundaries is the model's choice (notes/assumptions/4.md). -/
def Obligations.BoundaryChoosesOneTransition : Prop :=
  ∀ s : State,
    ((currentBoundary s).reset = true → step s = .next (resetTransition (beginTransition s))) ∧
    ((currentBoundary s).reset = false → (currentBoundary s).nmi = true →
      step s = .next (interruptTransition Config.nmiVector (beginTransition s))) ∧
    ((currentBoundary s).reset = false → (currentBoundary s).nmi = false → (currentBoundary s).irq = true → s.p.i = false →
      step s = .next (interruptTransition Config.irqVector (beginTransition s))) ∧
    ((currentBoundary s).reset = false → (currentBoundary s).nmi = false →
      ((currentBoundary s).irq = false ∨ s.p.i = true) → step s = runInstruction (beginTransition s))

/-- RESET sets I, loads PC from $FFFC/$FFFD, and changes no other register, flag or byte (rule R270). That the other
registers stay is the spec's decision D9 (notes/assumptions/13.md). -/
def Obligations.ResetTransitionSetsIAndLoadsPc : Prop :=
  ∀ s : State, (currentBoundary s).reset = true →
    ∃ lo hi t, portReads [0xFFFC#16, 0xFFFD#16] (beginTransition s) = ([lo, hi], t) ∧
      step s = .next
        { withPort (beginTransition s) t with
          p := { s.p with i := true }
          pc := joinBytes hi lo
          cycles := some s.cycleTable.resetSequence }

/-- IRQ and NMI entry push PC and status with bit 4 clear, set I, load the vector, and leave the rest (rules R248,
R249). Bit 4, D and I are the spec's decisions D7, D8 and D22, and the push order its own inference from R221
(notes/assumptions/13.md). -/
def Obligations.InterruptEntryPushesAndVectors : Prop :=
  ∀ (s : State) (vector : Word),
    chooseTransition (currentBoundary s) s.p.i = .nmi ∧ vector = 0xFFFA#16 ∨
      chooseTransition (currentBoundary s) s.p.i = .irq ∧ vector = 0xFFFE#16 →
    ∃ lo hi t,
      portReads [vector, vector + 1] (portWrites (frameBytes false s.pc s) (beginTransition s)) = ([lo, hi], t) ∧
      step s = .next
        { withPort (beginTransition s) t with
          sp := s.sp - 3#8
          p := { s.p with i := true }
          pc := joinBytes hi lo
          cycles := some s.cycleTable.interruptEntry }

/-- An undefined opcode consumes its byte, advances PC by 1, reports the byte, and changes nothing else (rule R241).
That the fault carries the state it leaves is how the model answers it (notes/assumptions/7.md). -/
def Obligations.InvalidOpcodeAdvancesPcOnly : Prop :=
  ∀ s : State, RunsInstruction s → (dispatchTable (opcodeByte s)).isNone = true →
    step s = .fault
      (.invalidOpcode (opcodeByte s)
        { withPort (beginTransition s) (busRead s.pc (beginTransition s)).2 with pc := s.pc + 1, cycles := none })

/-- Every step completes or reports InvalidOpcode of the undefined byte at PC; none is refused (rules R240, R50). -/
def Obligations.OnlyInvalidOpcodeStopsAStep : Prop :=
  ∀ s : State,
    (∃ t, step s = .next t) ∨
    (RunsInstruction s ∧ (dispatchTable (opcodeByte s)).isNone = true ∧
      ∃ t, step s = .fault (.invalidOpcode (opcodeByte s) t))

/-- After InvalidOpcode the block is not halted: the next fetch is at the byte after the offending one (rule R242).
That the block goes on is the spec's decision D14 (notes/assumptions/13.md), and stepOn, the policy of a host that
steps on, is how the model writes it (notes/assumptions/7.md). -/
def Obligations.HostMayStepOnAfterAFault : Prop :=
  ∀ (s u : State) (b : Byte), step s = .fault (.invalidOpcode b u) →
    u.pc = s.pc + 1 ∧ stepOn s = some u ∧ (RunsInstruction u → step u = runInstruction (beginTransition u))

/-- From every state whose memory is canonical, a step leaves memory canonical (rules R50, R34). The canonical form is
the model's choice (notes/assumptions/2.md). -/
def Obligations.EveryStepKeepsMemoryCanonical : Prop :=
  ∀ s : State, s.Inv →
    (∀ t, step s = .next t → t.Inv) ∧ (∀ b t, step s = .fault (.invalidOpcode b t) → t.Inv)

/-- The reset state meets the invariant and is one of the initial states of R273 (rules R273, R39). The register
values of State.reset that the spec does not give are the model's choice (notes/assumptions/1.md); the statement asks
for none of them. That the content of $FFFC/$FFFD is what memory holds there is its choice too
(notes/assumptions/14.md). -/
def Obligations.ResetStateIsInitial : Prop :=
  State.reset.Inv ∧ State.reset.Initial

/-- Every state reachable from any initial state, stepping on after faults, has canonical memory (rules R273, R242).
The canonical form is the model's choice (notes/assumptions/2.md), and so is what the content of $FFFC/$FFFD is where
a device answers (notes/assumptions/14.md). -/
def Obligations.ReachableStatesAreCanonical : Prop :=
  ∀ s t : State, s.Initial → Reachable s t → t.Inv

/-- Effective addresses, page crossings and reach of the formats that read no pointer (rules R105, R106, R107, R108,
R109, R110, R114, R115). -/
def Obligations.DirectEffectiveAddresses : Prop :=
  (∀ (z : Byte) (s : State), (resolve (.zp z) s).ea.toNat = z.toNat ∧ (resolve (.zp z) s).pageCross = false) ∧
  (∀ (z : Byte) (s : State),
    (resolve (.zpx z) s).ea.toNat = (z.toNat + s.x.toNat) % 256 ∧ (resolve (.zpx z) s).pageCross = false) ∧
  (∀ (z : Byte) (s : State),
    (resolve (.zpy z) s).ea.toNat = (z.toNat + s.y.toNat) % 256 ∧ (resolve (.zpy z) s).pageCross = false) ∧
  (∀ (w : Word) (s : State), (resolve (.abs w) s).ea = w ∧ (resolve (.abs w) s).pageCross = false) ∧
  (∀ (w : Word) (s : State),
    (resolve (.abx w) s).ea.toNat = (w.toNat + s.x.toNat) % 65536 ∧
    (resolve (.abx w) s).pageCross = decide (w.toNat / 256 ≠ (resolve (.abx w) s).ea.toNat / 256)) ∧
  (∀ (w : Word) (s : State),
    (resolve (.aby w) s).ea.toNat = (w.toNat + s.y.toNat) % 65536 ∧
    (resolve (.aby w) s).pageCross = decide (w.toNat / 256 ≠ (resolve (.aby w) s).ea.toNat / 256)) ∧
  (∀ (d : Byte) (s : State),
    ((resolve (.rel d) s).ea.toNat : Int) = ((s.pc.toNat : Int) + d.toInt) % 65536 ∧
    (resolve (.rel d) s).pageCross = decide (s.pc.toNat / 256 ≠ (resolve (.rel d) s).ea.toNat / 256)) ∧
  (∀ (z d : Byte) (w : Word) (s : State),
    ∀ m ∈ [MemOperand.zp z, .zpx z, .zpy z, .abs w, .abx w, .aby w, .rel d], (resolve m s).state = s)

/-- Pointers of JMP (ind), (zp,X) and (zp),Y: where their bytes lie, the page bug, the wrap, the order of reads (rules
R111, R112, R113, R115, R55). -/
def Obligations.IndirectEffectiveAddresses : Prop :=
  (∀ (p : Word) (s : State),
    (nextInPage p).toNat = p.toNat / 256 * 256 + (p.toNat + 1) % 256 ∧
    (resolve (.ind p) s).pageCross = false ∧
    ∃ l h, portReads [p, nextInPage p] s = ([l, h], (resolve (.ind p) s).state) ∧ (resolve (.ind p) s).ea = joinBytes h l) ∧
  (∀ (z : Byte) (s : State) (lo hi : Word), lo.toNat = (z.toNat + s.x.toNat) % 256 →
    hi.toNat = (z.toNat + s.x.toNat + 1) % 256 →
    (resolve (.izx z) s).pageCross = false ∧
    ∃ l h, portReads [lo, hi] s = ([l, h], (resolve (.izx z) s).state) ∧ (resolve (.izx z) s).ea = joinBytes h l) ∧
  (∀ (z : Byte) (s : State) (lo hi : Word), lo.toNat = z.toNat → hi.toNat = (z.toNat + 1) % 256 →
    ∃ l h, portReads [lo, hi] s = ([l, h], (resolve (.izy z) s).state) ∧
      (resolve (.izy z) s).ea.toNat = ((joinBytes h l).toNat + s.y.toNat) % 65536 ∧
      (resolve (.izy z) s).pageCross =
        decide ((joinBytes h l).toNat / 256 ≠ (resolve (.izy z) s).ea.toNat / 256))

/-- The byte a reading operation works on is the immediate byte, or the answer to one read at the effective address
(rules R101, R104). The bytes are fetched before exec runs (notes/assumptions/12.md). -/
def Obligations.OperandByteIsImmediateOrMemory : Prop :=
  (∀ (v : Byte) (s : State), operandByte (.imm v) s = v ∧ afterOperand (.imm v) s = s) ∧
  (∀ (m : MemOperand) (s : State),
    operandByte (.mem m) s = answer (resolve m s).ea (resolve m s).state ∧
    afterOperand (.mem m) s = (busRead (resolve m s).ea (resolve m s).state).2) ∧
  (∀ (src : Source) (s : State), readSource src s = (operandByte src s, afterOperand src s))

/-- Each access is answered by the environment: by plain RAM, or by the host, which may discard a write (rules R50,
R51, R52). The list of responses, and plain RAM where it ends, are the model's form of the parameter Env
(notes/assumptions/3.md; the spec's decision D11). -/
def Obligations.MemoryPortIsAnsweredByTheEnvironment : Prop :=
  (∀ (a : Word) (v : Byte) (s : State), (s.responses = [] ∨ ∃ rest, s.responses = .ram :: rest) →
    busRead a s =
      (peek s a, { s with responses := s.responses.tail, bus := s.bus ++ [.read a (peek s a)] }) ∧
    busWrite a v s =
      { s with mem := Memory.write s.mem a.toNat v, responses := s.responses.tail, bus := s.bus ++ [.write a v] }) ∧
  (∀ (a : Word) (v w : Byte) (changes : List (Word × Byte)) (rest : List Response) (s : State),
    s.responses = .device w changes :: rest →
    busRead a s =
      (w, { s with mem := applyHostWrites changes s.mem, responses := rest, bus := s.bus ++ [.read a w] }) ∧
    busWrite a v s =
      { s with mem := applyHostWrites changes s.mem, responses := rest, bus := s.bus ++ [.write a v] }) ∧
  (∀ (a b : Word) (v : Byte) (s : State), s.Inv → PlainRam s →
    (busRead a (busWrite a v s)).1 = v ∧ (b ≠ a → (busRead b (busWrite a v s)).1 = peek s b))

/-- LDA, LDX, LDY complete in every format: the operand byte into the register, N and Z of it, nothing else (rules
R131, R132, R133). -/
def Obligations.LoadsWriteRegisterAndSetNZ : Prop :=
  HasEncodings .lda [(.imm, 0xA9#8), (.zp, 0xA5#8), (.zpx, 0xB5#8), (.abs, 0xAD#8), (.abx, 0xBD#8),
      (.aby, 0xB9#8), (.izx, 0xA1#8), (.izy, 0xB1#8)] ∧
  HasEncodings .ldx [(.imm, 0xA2#8), (.zp, 0xA6#8), (.zpy, 0xB6#8), (.abs, 0xAE#8), (.aby, 0xBE#8)] ∧
  HasEncodings .ldy [(.imm, 0xA0#8), (.zp, 0xA4#8), (.zpx, 0xB4#8), (.abs, 0xAC#8), (.abx, 0xBC#8)] ∧
  (∀ (i : Instr) (s : State), i.operation = .lda → ∃ src : Source, i.operand = src.operand ∧
    exec i s = .next
      { afterOperand src s with
        a := operandByte src s
        p := { s.p with z := operandByte src s == 0#8, n := (operandByte src s).getLsbD 7 } }) ∧
  (∀ (i : Instr) (s : State), i.operation = .ldx → ∃ src : Source, i.operand = src.operand ∧
    exec i s = .next
      { afterOperand src s with
        x := operandByte src s
        p := { s.p with z := operandByte src s == 0#8, n := (operandByte src s).getLsbD 7 } }) ∧
  (∀ (i : Instr) (s : State), i.operation = .ldy → ∃ src : Source, i.operand = src.operand ∧
    exec i s = .next
      { afterOperand src s with
        y := operandByte src s
        p := { s.p with z := operandByte src s == 0#8, n := (operandByte src s).getLsbD 7 } })

/-- STA, STX, STY complete in every format: one write of the register at the effective address, no flag (rules R134,
R135, R136). -/
def Obligations.StoresWriteOneByte : Prop :=
  HasEncodings .sta [(.zp, 0x85#8), (.zpx, 0x95#8), (.abs, 0x8D#8), (.abx, 0x9D#8), (.aby, 0x99#8),
      (.izx, 0x81#8), (.izy, 0x91#8)] ∧
  HasEncodings .stx [(.zp, 0x86#8), (.zpy, 0x96#8), (.abs, 0x8E#8)] ∧
  HasEncodings .sty [(.zp, 0x84#8), (.zpx, 0x94#8), (.abs, 0x8C#8)] ∧
  (∀ (i : Instr) (s : State), i.operation = .sta → ∃ m : MemOperand, i.operand = .mem m ∧
    exec i s = .next (withPort s (busWrite (resolve m s).ea s.a (resolve m s).state))) ∧
  (∀ (i : Instr) (s : State), i.operation = .stx → ∃ m : MemOperand, i.operand = .mem m ∧
    exec i s = .next (withPort s (busWrite (resolve m s).ea s.x (resolve m s).state))) ∧
  (∀ (i : Instr) (s : State), i.operation = .sty → ∃ m : MemOperand, i.operand = .mem m ∧
    exec i s = .next (withPort s (busWrite (resolve m s).ea s.y (resolve m s).state)))

/-- TAX, TAY, TXA, TYA, TSX copy a register and set N and Z of the byte moved (rules R137, R138, R139, R140, R141). -/
def Obligations.TransfersCopyAndSetNZ : Prop :=
  HasEncodings .tax [(.imp, 0xAA#8)] ∧
  HasEncodings .tay [(.imp, 0xA8#8)] ∧
  HasEncodings .txa [(.imp, 0x8A#8)] ∧
  HasEncodings .tya [(.imp, 0x98#8)] ∧
  HasEncodings .tsx [(.imp, 0xBA#8)] ∧
  (∀ s : State,
    exec .tax s = .next { s with x := s.a, p := { s.p with z := s.a == 0#8, n := s.a.getLsbD 7 } }) ∧
  (∀ s : State,
    exec .tay s = .next { s with y := s.a, p := { s.p with z := s.a == 0#8, n := s.a.getLsbD 7 } }) ∧
  (∀ s : State,
    exec .txa s = .next { s with a := s.x, p := { s.p with z := s.x == 0#8, n := s.x.getLsbD 7 } }) ∧
  (∀ s : State,
    exec .tya s = .next { s with a := s.y, p := { s.p with z := s.y == 0#8, n := s.y.getLsbD 7 } }) ∧
  (∀ s : State,
    exec .tsx s = .next { s with x := s.sp, p := { s.p with z := s.sp == 0#8, n := s.sp.getLsbD 7 } })

/-- TXS copies X to S and changes no flag (rule R142). That TXS writes no flag is the spec's decision D12
(notes/assumptions/13.md). -/
def Obligations.TxsWritesNoFlag : Prop :=
  HasEncodings .txs [(.imp, 0x9A#8)] ∧
  (∀ s : State, exec .txs s = .next { s with sp := s.x }) ∧
  (∀ (i : Instr) (s t : State), exec i s = .next t → i.operation ≠ .txs →
    t.sp - s.sp ∈ [0#8, 1#8, 2#8, 3#8, 0xFF#8, 0xFE#8, 0xFD#8])

/-- AND, ORA, EOR complete in every format: A becomes the bitwise result, N and Z of it, nothing else (rules R150,
R151, R152). -/
def Obligations.LogicalOperationsOnA : Prop :=
  HasEncodings .and [(.imm, 0x29#8), (.zp, 0x25#8), (.zpx, 0x35#8), (.abs, 0x2D#8), (.abx, 0x3D#8),
      (.aby, 0x39#8), (.izx, 0x21#8), (.izy, 0x31#8)] ∧
  HasEncodings .ora [(.imm, 0x09#8), (.zp, 0x05#8), (.zpx, 0x15#8), (.abs, 0x0D#8), (.abx, 0x1D#8),
      (.aby, 0x19#8), (.izx, 0x01#8), (.izy, 0x11#8)] ∧
  HasEncodings .eor [(.imm, 0x49#8), (.zp, 0x45#8), (.zpx, 0x55#8), (.abs, 0x4D#8), (.abx, 0x5D#8),
      (.aby, 0x59#8), (.izx, 0x41#8), (.izy, 0x51#8)] ∧
  (∀ (i : Instr) (s : State), i.operation = .and → ∃ src : Source, i.operand = src.operand ∧
    exec i s = .next
      { afterOperand src s with
        a := s.a &&& operandByte src s
        p := { s.p with z := (s.a &&& operandByte src s) == 0#8, n := (s.a &&& operandByte src s).getLsbD 7 } }) ∧
  (∀ (i : Instr) (s : State), i.operation = .ora → ∃ src : Source, i.operand = src.operand ∧
    exec i s = .next
      { afterOperand src s with
        a := s.a ||| operandByte src s
        p := { s.p with z := (s.a ||| operandByte src s) == 0#8, n := (s.a ||| operandByte src s).getLsbD 7 } }) ∧
  (∀ (i : Instr) (s : State), i.operation = .eor → ∃ src : Source, i.operand = src.operand ∧
    exec i s = .next
      { afterOperand src s with
        a := s.a ^^^ operandByte src s
        p := { s.p with z := (s.a ^^^ operandByte src s) == 0#8, n := (s.a ^^^ operandByte src s).getLsbD 7 } })

/-- BIT sets Z from A and M, N and V from bits 7 and 6 of M, and changes nothing else (rule R153). -/
def Obligations.BitTestsMemory : Prop :=
  HasEncodings .bit [(.zp, 0x24#8), (.abs, 0x2C#8)] ∧
  (∀ (i : Instr) (s : State), i.operation = .bit → ∃ m : MemOperand, i.operand = .mem m ∧
    exec i s = .next
      { afterOperand (.mem m) s with
        p :=
          { s.p with
            z := (s.a &&& operandByte (.mem m) s) == 0#8
            n := (operandByte (.mem m) s).getLsbD 7
            v := (operandByte (.mem m) s).getLsbD 6 } })

/-- INC and DEC complete in every format: the byte plus or minus one modulo 256, N and Z, one read then one write
(rules R154, R155). -/
def Obligations.IncDecMemoryByOne : Prop :=
  HasEncodings .inc [(.zp, 0xE6#8), (.zpx, 0xF6#8), (.abs, 0xEE#8), (.abx, 0xFE#8)] ∧
  HasEncodings .dec [(.zp, 0xC6#8), (.zpx, 0xD6#8), (.abs, 0xCE#8), (.abx, 0xDE#8)] ∧
  (∀ (i : Instr) (s : State), i.operation = .inc → ∃ m : MemOperand, i.operand = .mem m ∧
    exec i s = .next
      { withPort s (busWrite (resolve m s).ea (BitVec.ofNat 8 ((operandByte (.mem m) s).toNat + 1)) (afterOperand (.mem m) s)) with
        p :=
          { s.p with
            z := BitVec.ofNat 8 ((operandByte (.mem m) s).toNat + 1) == 0#8
            n := (BitVec.ofNat 8 ((operandByte (.mem m) s).toNat + 1)).getLsbD 7 } }) ∧
  (∀ (i : Instr) (s : State), i.operation = .dec → ∃ m : MemOperand, i.operand = .mem m ∧
    exec i s = .next
      { withPort s (busWrite (resolve m s).ea (BitVec.ofNat 8 ((operandByte (.mem m) s).toNat + 255)) (afterOperand (.mem m) s)) with
        p :=
          { s.p with
            z := BitVec.ofNat 8 ((operandByte (.mem m) s).toNat + 255) == 0#8
            n := (BitVec.ofNat 8 ((operandByte (.mem m) s).toNat + 255)).getLsbD 7 } })

/-- INX, INY, DEX, DEY change X or Y by one modulo 256 and set N and Z (rules R156, R157, R158, R159). -/
def Obligations.IndexRegistersByOne : Prop :=
  HasEncodings .inx [(.imp, 0xE8#8)] ∧
  HasEncodings .iny [(.imp, 0xC8#8)] ∧
  HasEncodings .dex [(.imp, 0xCA#8)] ∧
  HasEncodings .dey [(.imp, 0x88#8)] ∧
  (∀ s : State,
    exec .inx s = .next
      { s with x := BitVec.ofNat 8 (s.x.toNat + 1), p := { s.p with z := BitVec.ofNat 8 (s.x.toNat + 1) == 0#8, n := (BitVec.ofNat 8 (s.x.toNat + 1)).getLsbD 7 } }) ∧
  (∀ s : State,
    exec .iny s = .next
      { s with y := BitVec.ofNat 8 (s.y.toNat + 1), p := { s.p with z := BitVec.ofNat 8 (s.y.toNat + 1) == 0#8, n := (BitVec.ofNat 8 (s.y.toNat + 1)).getLsbD 7 } }) ∧
  (∀ s : State,
    exec .dex s = .next
      { s with x := BitVec.ofNat 8 (s.x.toNat + 255), p := { s.p with z := BitVec.ofNat 8 (s.x.toNat + 255) == 0#8, n := (BitVec.ofNat 8 (s.x.toNat + 255)).getLsbD 7 } }) ∧
  (∀ s : State,
    exec .dey s = .next
      { s with y := BitVec.ofNat 8 (s.y.toNat + 255), p := { s.p with z := BitVec.ofNat 8 (s.y.toNat + 255) == 0#8, n := (BitVec.ofNat 8 (s.y.toNat + 255)).getLsbD 7 } })

/-- ADC completes in every format: AddBin with D = 0, AddDec with D = 1, into A, N, V, Z, C (rule R161). -/
def Obligations.AdcAddsByDecimalFlag : Prop :=
  HasEncodings .adc [(.imm, 0x69#8), (.zp, 0x65#8), (.zpx, 0x75#8), (.abs, 0x6D#8), (.abx, 0x7D#8),
      (.aby, 0x79#8), (.izx, 0x61#8), (.izy, 0x71#8)] ∧
  (∀ (i : Instr) (s : State), i.operation = .adc → ∃ src : Source, i.operand = src.operand ∧
    ∀ r : AluResult, r = (if s.p.d then addDec s.a (operandByte src s) s.p.c else addBin s.a (operandByte src s) s.p.c) →
      exec i s = .next
        { afterOperand src s with
          a := r.r
          p := { s.p with n := r.n, v := r.v, z := r.z, c := r.c } })

/-- SBC completes in every format: AddBin of the complement with D = 0, SubDec with D = 1 (rule R162). -/
def Obligations.SbcSubtractsByDecimalFlag : Prop :=
  HasEncodings .sbc [(.imm, 0xE9#8), (.zp, 0xE5#8), (.zpx, 0xF5#8), (.abs, 0xED#8), (.abx, 0xFD#8),
      (.aby, 0xF9#8), (.izx, 0xE1#8), (.izy, 0xF1#8)] ∧
  (∀ (i : Instr) (s : State), i.operation = .sbc → ∃ src : Source, i.operand = src.operand ∧
    ∀ r : AluResult, r = (if s.p.d then subDec s.a (operandByte src s) s.p.c else addBin s.a (operandByte src s ^^^ 0xFF#8) s.p.c) →
      exec i s = .next
        { afterOperand src s with
          a := r.r
          p := { s.p with n := r.n, v := r.v, z := r.z, c := r.c } }) ∧
  (∀ (a m : Byte) (c : Bool),
    ((addBin a (m ^^^ 0xFF#8) c).r.toNat : Int) = ((a.toNat : Int) - m.toNat - (1 - c.toNat)) % 256 ∧
    (addBin a (m ^^^ 0xFF#8) c).c = decide (0 ≤ (a.toNat : Int) - m.toNat - (1 - c.toNat)))

/-- AddBin: the 9-bit sum, its carry, Z, N, and V exactly when the signed sum is out of range (rule R163). -/
def Obligations.BinaryAdditionAndOverflow : Prop :=
  ∀ (a m : Byte) (cin : Bool),
    (addBin a m cin).r.toNat = (a.toNat + m.toNat + cin.toNat) % 256 ∧
    (addBin a m cin).c = decide (a.toNat + m.toNat + cin.toNat > 255) ∧
    (addBin a m cin).z = ((addBin a m cin).r == 0#8) ∧
    (addBin a m cin).n = (addBin a m cin).r.getLsbD 7 ∧
    ((addBin a m cin).v = true ↔
      a.getLsbD 7 = m.getLsbD 7 ∧ (addBin a m cin).r.getLsbD 7 ≠ a.getLsbD 7) ∧
    ((addBin a m cin).v = true ↔
      ¬(-128 ≤ a.toInt + m.toInt + cin.toNat ∧ a.toInt + m.toInt + cin.toNat ≤ 127)) ∧
    ((addBin a (m ^^^ 0xFF#8) cin).v = true ↔
      ¬(-128 ≤ a.toInt - m.toInt - (1 - cin.toNat) ∧ a.toInt - m.toInt - (1 - cin.toNat) ≤ 127))

/-- AddDec follows the nibble-wise procedure, and is decimal addition on every pair of valid BCD operands (rule R164).
What it gives for operands that are not valid BCD is the spec's decision D13 (notes/assumptions/10.md). -/
def Obligations.DecimalAdditionFollowsTheProcedure : Prop :=
  (∀ (a m : Byte) (cin : Bool) (al t : Nat),
    al = (if 0x0A ≤ (a &&& 0x0F#8).toNat + (m &&& 0x0F#8).toNat + cin.toNat then
        ((a &&& 0x0F#8).toNat + (m &&& 0x0F#8).toNat + cin.toNat + 0x06) % 16 + 0x10
      else (a &&& 0x0F#8).toNat + (m &&& 0x0F#8).toNat + cin.toNat) →
    t = (if 0xA0 ≤ (a &&& 0xF0#8).toNat + (m &&& 0xF0#8).toNat + al then
        (a &&& 0xF0#8).toNat + (m &&& 0xF0#8).toNat + al + 0x60
      else (a &&& 0xF0#8).toNat + (m &&& 0xF0#8).toNat + al) →
    (addDec a m cin).r.toNat = t % 256 ∧
    (addDec a m cin).c = decide (0x100 ≤ t) ∧
    (addDec a m cin).z = ((addDec a m cin).r == 0#8) ∧
    (addDec a m cin).n = (addDec a m cin).r.getLsbD 7 ∧
    (addDec a m cin).v = (addBin a m cin).v) ∧
  (∀ (x y : Nat) (cin : Bool), x < 100 → y < 100 →
    (addDec (bcd x) (bcd y) cin).r = bcd ((x + y + cin.toNat) % 100) ∧
    (addDec (bcd x) (bcd y) cin).c = decide (100 ≤ x + y + cin.toNat)) ∧
  (addDec 0x0F#8 0x0F#8 false).r = 0x14#8 ∧ (addDec 0x9A#8 0x00#8 false).r = 0x00#8 ∧
  (addDec 0xFF#8 0xFF#8 true).r = 0x55#8

/-- SubDec follows the nibble-wise procedure, and is decimal subtraction on every pair of valid BCD operands (rule
R165). What it gives for operands that are not valid BCD is the spec's decision D13 (notes/assumptions/10.md). -/
def Obligations.DecimalSubtractionFollowsTheProcedure : Prop :=
  (∀ (a m : Byte) (cin : Bool) (al0 al t0 t : Int),
    al0 = ((a &&& 0x0F#8).toNat : Int) - (m &&& 0x0F#8).toNat + cin.toNat - 1 →
    al = (if al0 < 0 then (al0 - 0x06) % 16 - 0x10 else al0) →
    t0 = ((a &&& 0xF0#8).toNat : Int) - (m &&& 0xF0#8).toNat + al →
    t = (if t0 < 0 then t0 - 0x60 else t0) →
    ((subDec a m cin).r.toNat : Int) = t % 256 ∧
    (subDec a m cin).c = (addBin a (m ^^^ 0xFF#8) cin).c ∧
    ((subDec a m cin).c = true ↔ 0 ≤ t0) ∧
    (subDec a m cin).z = ((subDec a m cin).r == 0#8) ∧
    (subDec a m cin).n = (subDec a m cin).r.getLsbD 7 ∧
    (subDec a m cin).v = (addBin a (m ^^^ 0xFF#8) cin).v) ∧
  (∀ (x y : Nat) (cin : Bool), x < 100 → y < 100 →
    (subDec (bcd x) (bcd y) cin).r = bcd (((x : Int) - y - (1 - cin.toNat)) % 100).toNat ∧
    (subDec (bcd x) (bcd y) cin).c = decide (0 ≤ (x : Int) - y - (1 - cin.toNat))) ∧
  (subDec 0x00#8 0x0F#8 false).r = 0x9A#8 ∧ (subDec 0x0A#8 0x00#8 true).r = 0x0A#8

/-- In binary mode, ADC of b then SBC of b with the opposite carry-in restores A (rule R166 (f)). -/
def Obligations.AdcThenSbcRestoresA : Prop :=
  ∀ (s t u : State) (b : Byte), s.p.d = false → exec (.adcImm b) s = .next t →
    exec (.sbcImm b) { t with p := { t.p with c := !s.p.c } } = .next u → u.a = s.a

/-- ASL, LSR, ROL, ROR complete in every format, on A and on memory: the byte, C, N and Z (rules R171, R172, R173,
R174). -/
def Obligations.ShiftsAndRotatesByOneBit : Prop :=
  HasEncodings .asl [(.acc, 0x0A#8), (.zp, 0x06#8), (.zpx, 0x16#8), (.abs, 0x0E#8), (.abx, 0x1E#8)] ∧
  HasEncodings .lsr [(.acc, 0x4A#8), (.zp, 0x46#8), (.zpx, 0x56#8), (.abs, 0x4E#8), (.abx, 0x5E#8)] ∧
  HasEncodings .rol [(.acc, 0x2A#8), (.zp, 0x26#8), (.zpx, 0x36#8), (.abs, 0x2E#8), (.abx, 0x3E#8)] ∧
  HasEncodings .ror [(.acc, 0x6A#8), (.zp, 0x66#8), (.zpx, 0x76#8), (.abs, 0x6E#8), (.abx, 0x7E#8)] ∧
  ShiftEffect .asl (fun v _ => BitVec.ofNat 8 (2 * v.toNat)) (fun v => v.getLsbD 7) ∧
  ShiftEffect .lsr (fun v _ => BitVec.ofNat 8 (v.toNat / 2)) (fun v => v.getLsbD 0) ∧
  ShiftEffect .rol (fun v c => BitVec.ofNat 8 (2 * v.toNat + c.toNat)) (fun v => v.getLsbD 7) ∧
  ShiftEffect .ror (fun v c => BitVec.ofNat 8 (v.toNat / 2 + 128 * c.toNat)) (fun v => v.getLsbD 0)

/-- CMP, CPX, CPY complete in every format: C when register >= operand, Z when equal, N of the difference (rules R180,
R181, R182, R183). -/
def Obligations.ComparesSetCarryZeroNegative : Prop :=
  HasEncodings .cmp [(.imm, 0xC9#8), (.zp, 0xC5#8), (.zpx, 0xD5#8), (.abs, 0xCD#8), (.abx, 0xDD#8),
      (.aby, 0xD9#8), (.izx, 0xC1#8), (.izy, 0xD1#8)] ∧
  HasEncodings .cpx [(.imm, 0xE0#8), (.zp, 0xE4#8), (.abs, 0xEC#8)] ∧
  HasEncodings .cpy [(.imm, 0xC0#8), (.zp, 0xC4#8), (.abs, 0xCC#8)] ∧
  (∀ (i : Instr) (s : State), i.operation = .cmp → ∃ src : Source, i.operand = src.operand ∧
    exec i s = .next
      { afterOperand src s with
        p :=
          { s.p with
            c := decide ((operandByte src s).toNat ≤ s.a.toNat)
            z := decide (s.a = operandByte src s)
            n := (BitVec.ofInt 8 ((s.a.toNat : Int) - (operandByte src s).toNat)).getLsbD 7 } }) ∧
  (∀ (i : Instr) (s : State), i.operation = .cpx → ∃ src : Source, i.operand = src.operand ∧
    exec i s = .next
      { afterOperand src s with
        p :=
          { s.p with
            c := decide ((operandByte src s).toNat ≤ s.x.toNat)
            z := decide (s.x = operandByte src s)
            n := (BitVec.ofInt 8 ((s.x.toNat : Int) - (operandByte src s).toNat)).getLsbD 7 } }) ∧
  (∀ (i : Instr) (s : State), i.operation = .cpy → ∃ src : Source, i.operand = src.operand ∧
    exec i s = .next
      { afterOperand src s with
        p :=
          { s.p with
            c := decide ((operandByte src s).toNat ≤ s.y.toNat)
            z := decide (s.y = operandByte src s)
            n := (BitVec.ofInt 8 ((s.y.toNat : Int) - (operandByte src s).toNat)).getLsbD 7 } })

/-- Each branch adds its displacement to PC when its flag has the value it tests, and changes nothing else (rules
R190, R191, R192, R193, R194, R195, R196, R197, R198). -/
def Obligations.BranchesTestTheirFlag : Prop :=
  HasEncodings .bcc [(.rel, 0x90#8)] ∧
  HasEncodings .bcs [(.rel, 0xB0#8)] ∧
  HasEncodings .beq [(.rel, 0xF0#8)] ∧
  HasEncodings .bne [(.rel, 0xD0#8)] ∧
  HasEncodings .bmi [(.rel, 0x30#8)] ∧
  HasEncodings .bpl [(.rel, 0x10#8)] ∧
  HasEncodings .bvc [(.rel, 0x50#8)] ∧
  HasEncodings .bvs [(.rel, 0x70#8)] ∧
  (∀ (d : Byte) (s : State),
    exec (.bcc d) s = .next { s with pc := if s.p.c = false then s.pc + d.signExtend 16 else s.pc } ∧
    exec (.bcs d) s = .next { s with pc := if s.p.c = true then s.pc + d.signExtend 16 else s.pc } ∧
    exec (.beq d) s = .next { s with pc := if s.p.z = true then s.pc + d.signExtend 16 else s.pc } ∧
    exec (.bne d) s = .next { s with pc := if s.p.z = false then s.pc + d.signExtend 16 else s.pc } ∧
    exec (.bmi d) s = .next { s with pc := if s.p.n = true then s.pc + d.signExtend 16 else s.pc } ∧
    exec (.bpl d) s = .next { s with pc := if s.p.n = false then s.pc + d.signExtend 16 else s.pc } ∧
    exec (.bvc d) s = .next { s with pc := if s.p.v = false then s.pc + d.signExtend 16 else s.pc } ∧
    exec (.bvs d) s = .next { s with pc := if s.p.v = true then s.pc + d.signExtend 16 else s.pc })

/-- JMP sets PC to the operand, or to the content of the pointer with the page-boundary bug (rule R200). -/
def Obligations.JmpSetsPcToTheResolvedAddress : Prop :=
  HasEncodings .jmp [(.abs, 0x4C#8), (.ind, 0x6C#8)] ∧
  (∀ (w : Word) (s : State), exec (.jmpAbs w) s = .next { s with pc := w }) ∧
  (∀ (p : Word) (s : State),
    ∃ lo hi t, portReads [p, (p &&& 0xFF00#16) ||| ((p + 1) &&& 0x00FF#16)] s = ([lo, hi], t) ∧
      exec (.jmpInd p) s = .next { withPort s t with pc := joinBytes hi lo })

/-- JSR pushes the address of its last byte, high byte first, then jumps (rule R201). -/
def Obligations.JsrPushesItsLastByteAddress : Prop :=
  HasEncodings .jsr [(.abs, 0x20#8)] ∧
  (∀ (w : Word) (s : State),
    exec (.jsr w) s = .next
      { withPort s
          (portWrites
            [(stackAddress s.sp, highByte (s.pc - 1)), (stackAddress (s.sp - 1#8), lowByte (s.pc - 1))] s) with
        sp := s.sp - 2#8
        pc := w })

/-- RTS pulls the low then the high byte and sets PC to the pulled address plus one (rule R202). -/
def Obligations.RtsPullsAndAddsOne : Prop :=
  HasEncodings .rts [(.imp, 0x60#8)] ∧
  (∀ s : State,
    ∃ lo hi t, portReads [stackAddress (s.sp + 1#8), stackAddress (s.sp + 2#8)] s = ([lo, hi], t) ∧
      exec .rts s = .next { withPort s t with sp := s.sp + 2#8, pc := joinBytes hi lo + 1 })

/-- A JSR followed by an RTS resumes at the address after the JSR with S restored (rules R201, R202). What the
environment does with an access is data of the state (notes/assumptions/3.md). -/
def Obligations.JsrThenRtsReturnsAfterTheCall : Prop :=
  ∀ (s t u : State) (w pc' : Word) (a x y : Byte) (p : Status), s.Inv → PlainRam s →
    exec (.jsr w) s = .next t →
    exec .rts { t with pc := pc', a := a, x := x, y := y, p := p } = .next u → u.pc = s.pc ∧ u.sp = s.sp

/-- Push8 writes at $0100 | S then decrements S; Pull8 increments S then reads; both wrap within page 1 (rules R210,
R211). That a pull gives back what was pushed is R211's own inference, for plain RAM (notes/assumptions/3.md). -/
def Obligations.PushAndPullPrimitives : Prop :=
  (∀ v : Byte, (stackAddress v).toNat = 0x100 + v.toNat) ∧
  (∀ (v : Byte) (s : State),
    push8 v s = { withPort s (busWrite (stackAddress s.sp) v s) with sp := BitVec.ofNat 8 (s.sp.toNat + 255) }) ∧
  (∀ (s : State) (n : Byte), n.toNat = (s.sp.toNat + 1) % 256 →
    pull8 s = (answer (stackAddress n) s, { withPort s (busRead (stackAddress n) s).2 with sp := n })) ∧
  (∀ (v : Byte) (s : State), s.Inv → PlainRam s →
    (pull8 (push8 v s)).1 = v ∧ (pull8 (push8 v s)).2.sp = s.sp)

/-- PHA, PHP push A and the status image; PLA pulls A with N and Z; PLP pulls all seven flags (rules R212, R213, R214,
R215). -/
def Obligations.StackInstructions : Prop :=
  HasEncodings .pha [(.imp, 0x48#8)] ∧
  HasEncodings .php [(.imp, 0x08#8)] ∧
  HasEncodings .pla [(.imp, 0x68#8)] ∧
  HasEncodings .plp [(.imp, 0x28#8)] ∧
  (∀ s : State,
    exec .pha s = .next { withPort s (busWrite (stackAddress s.sp) s.a s) with sp := s.sp - 1#8 }) ∧
  (∀ (s : State) (v : Byte),
    v = BitVec.ofNat 8 (128 * s.p.n.toNat + 64 * s.p.v.toNat + 32 + 16 + 8 * s.p.d.toNat + 4 * s.p.i.toNat +
      2 * s.p.z.toNat + s.p.c.toNat) →
    exec .php s = .next { withPort s (busWrite (stackAddress s.sp) v s) with sp := s.sp - 1#8 }) ∧
  (∀ s : State,
    ∃ v t, busRead (stackAddress (s.sp + 1#8)) s = (v, t) ∧
      exec .pla s = .next
        { withPort s t with a := v, sp := s.sp + 1#8, p := { s.p with z := v == 0#8, n := v.getLsbD 7 } }) ∧
  (∀ s : State,
    ∃ v t, busRead (stackAddress (s.sp + 1#8)) s = (v, t) ∧
      exec .plp s = .next
        { withPort s t with
          sp := s.sp + 1#8
          p := -- N, V, B, D, I, Z, C
            ⟨v.getLsbD 7, v.getLsbD 6, v.getLsbD 4, v.getLsbD 3, v.getLsbD 2, v.getLsbD 1, v.getLsbD 0⟩ })

/-- BRK pushes the address after the padding byte and the status with bit 4 set, sets I, loads $FFFE/$FFFF (rule
R220). That D stays is the spec's decision D8, and the push order its own inference from R221
(notes/assumptions/13.md). -/
def Obligations.BrkPushesSetsIAndVectors : Prop :=
  HasEncodings .brk [(.imp, 0x00#8)] ∧
  (∀ s : State,
    ∃ lo hi t, portReads [0xFFFE#16, 0xFFFF#16] (portWrites (frameBytes true (s.pc + 1) s) s) = ([lo, hi], t) ∧
      exec .brk s = .next
        { withPort s t with sp := s.sp - 3#8, p := { s.p with i := true }, pc := joinBytes hi lo })

/-- RTI pulls the seven flags, then PC low and high, with nothing added (rule R221). -/
def Obligations.RtiRestoresFlagsAndPc : Prop :=
  HasEncodings .rti [(.imp, 0x40#8)] ∧
  (∀ s : State,
    ∃ v lo hi t,
      portReads [stackAddress (s.sp + 1#8), stackAddress (s.sp + 2#8), stackAddress (s.sp + 3#8)] s = ([v, lo, hi], t) ∧
      exec .rti s = .next
        { withPort s t with
          sp := s.sp + 3#8
          p := -- N, V, B, D, I, Z, C
            ⟨v.getLsbD 7, v.getLsbD 6, v.getLsbD 4, v.getLsbD 3, v.getLsbD 2, v.getLsbD 1, v.getLsbD 0⟩
          pc := joinBytes hi lo })

/-- CLC, CLD, CLI, CLV, SEC, SED, SEI set or clear their one flag; NOP changes nothing (rules R222, R223, R224, R225,
R226, R227, R228, R229). -/
def Obligations.FlagInstructionsChangeOneFlag : Prop :=
  HasEncodings .clc [(.imp, 0x18#8)] ∧
  HasEncodings .cld [(.imp, 0xD8#8)] ∧
  HasEncodings .cli [(.imp, 0x58#8)] ∧
  HasEncodings .clv [(.imp, 0xB8#8)] ∧
  HasEncodings .sec [(.imp, 0x38#8)] ∧
  HasEncodings .sed [(.imp, 0xF8#8)] ∧
  HasEncodings .sei [(.imp, 0x78#8)] ∧
  HasEncodings .nop [(.imp, 0xEA#8)] ∧
  (∀ s : State,
    exec .clc s = .next { s with p := { s.p with c := false } } ∧
    exec .cld s = .next { s with p := { s.p with d := false } } ∧
    exec .cli s = .next { s with p := { s.p with i := false } } ∧
    exec .clv s = .next { s with p := { s.p with v := false } } ∧
    exec .sec s = .next { s with p := { s.p with c := true } } ∧
    exec .sed s = .next { s with p := { s.p with d := true } } ∧
    exec .sei s = .next { s with p := { s.p with i := true } } ∧
    exec .nop s = .next s)

/-- The frame BRK, IRQ, NMI and JSR leave on the stack, read back byte by byte (rule R256). R256 is the spec's own
inference from R248, R210, R201 and R220 (notes/assumptions/13.md), over plain RAM (notes/assumptions/3.md). -/
def Obligations.EntryFrameLayout : Prop :=
  (∀ (s : State) (brk : Bool), (statusByte brk s.p).toNat =
    128 * s.p.n.toNat + 64 * s.p.v.toNat + 32 + 16 * brk.toNat + 8 * s.p.d.toNat + 4 * s.p.i.toNat + 2 * s.p.z.toNat +
      s.p.c.toNat) ∧
  (∀ s t : State, s.Inv → PlainRam s → exec .brk s = .next t →
    peek t (stackAddress s.sp) = highByte (s.pc + 1) ∧ peek t (stackAddress (s.sp - 1#8)) = lowByte (s.pc + 1) ∧
    peek t (stackAddress (s.sp - 2#8)) = statusByte true s.p ∧ t.sp = s.sp - 3#8) ∧
  (∀ (s t : State) (vector : Word), s.Inv → PlainRam s → vector ∈ [Config.nmiVector, Config.irqVector] →
    t = interruptTransition vector s →
    peek t (stackAddress s.sp) = highByte s.pc ∧ peek t (stackAddress (s.sp - 1#8)) = lowByte s.pc ∧
    peek t (stackAddress (s.sp - 2#8)) = statusByte false s.p ∧ t.sp = s.sp - 3#8) ∧
  (∀ (s t : State) (w : Word), s.Inv → PlainRam s → exec (.jsr w) s = .next t →
    peek t (stackAddress s.sp) = highByte (s.pc - 1) ∧ peek t (stackAddress (s.sp - 1#8)) = lowByte (s.pc - 1) ∧
    t.sp = s.sp - 2#8)

/-- RTI after an IRQ or NMI entry resumes at the interrupted boundary with S and the flags restored (rules R254, R248,
R221). What the environment does with an access is data of the state (notes/assumptions/3.md). -/
def Obligations.RtiUndoesAnInterruptEntry : Prop :=
  ∀ (s t u : State) (vector pc' : Word) (a x y : Byte) (p : Status), s.Inv → PlainRam s →
    t = interruptTransition vector s →
    exec .rti { t with pc := pc', a := a, x := x, y := y, p := p } = .next u →
    u.pc = s.pc ∧ u.sp = s.sp ∧ u.p = { s.p with b := false }

/-- Two states that differ only in the stored B make the same step: same accesses, same result but for B (rule R32).
-/
def Obligations.StoredBreakFlagIsInvisible : Prop :=
  ∀ s t : State, dropBreak s = dropBreak t → dropBreakOutcome (step s) = dropBreakOutcome (step t)

/-- Each flag is changed only by the instructions the table of R31 names for it (rule R31). -/
def Obligations.OnlyTheseInstructionsChangeAFlag : Prop :=
  ∀ (i : Instr) (s t : State), exec i s = .next t →
    (t.p.n ≠ s.p.n → i.operation ∈
      [.lda, .ldx, .ldy, .tax, .tay, .txa, .tya, .tsx, .pla, .and, .ora, .eor, .inc, .dec, .inx, .iny, .dex, .dey, .asl, .lsr,
        .rol, .ror, .adc, .sbc, .cmp, .cpx, .cpy, .bit, .plp, .rti]) ∧
    (t.p.v ≠ s.p.v → i.operation ∈ [.adc, .sbc, .bit, .clv, .plp, .rti]) ∧
    (t.p.b ≠ s.p.b → i.operation ∈ [.plp, .rti]) ∧
    (t.p.d ≠ s.p.d → i.operation ∈ [.sed, .cld, .plp, .rti]) ∧
    (t.p.i ≠ s.p.i → i.operation ∈ [.brk, .sei, .cli, .plp, .rti]) ∧
    (t.p.z ≠ s.p.z → i.operation ∈
      [.lda, .ldx, .ldy, .tax, .tay, .txa, .tya, .tsx, .pla, .and, .ora, .eor, .inc, .dec, .inx, .iny, .dex, .dey, .asl, .lsr,
        .rol, .ror, .adc, .sbc, .cmp, .cpx, .cpy, .bit, .plp, .rti]) ∧
    (t.p.c ≠ s.p.c → i.operation ∈
      [.adc, .sbc, .asl, .lsr, .rol, .ror, .cmp, .cpx, .cpy, .sec, .clc, .plp, .rti])

/-- A, X, Y, S and PC are changed only by the instructions R21, R22 and R24 name; no entry touches A, X, Y (rules R21,
R22, R24). That the boundaries to come and the cycle table are fields of State, which no instruction changes, is the
model's choice (notes/assumptions/4.md, notes/assumptions/8.md). -/
def Obligations.OnlyTheseInstructionsChangeARegister : Prop :=
  (∀ (i : Instr) (s t : State), exec i s = .next t →
    (t.a ≠ s.a → i.operation ∈ [.lda, .txa, .tya, .pla, .and, .ora, .eor, .adc, .sbc] ∨
      i.operation ∈ [.asl, .lsr, .rol, .ror] ∧ i.operand = .acc) ∧
    (t.x ≠ s.x → i.operation ∈ [.ldx, .tax, .tsx, .inx, .dex]) ∧
    (t.y ≠ s.y → i.operation ∈ [.ldy, .tay, .iny, .dey]) ∧
    (t.sp ≠ s.sp → i.operation ∈ [.pha, .php, .pla, .plp, .jsr, .rts, .brk, .rti, .txs]) ∧
    (t.pc ≠ s.pc → i.operation ∈
      [.bcc, .bcs, .beq, .bne, .bmi, .bpl, .bvc, .bvs, .jmp, .jsr, .rts, .rti, .brk]) ∧
    t.inputs = s.inputs ∧ t.cycleTable = s.cycleTable) ∧
  (∀ (s : State) (vector : Word),
    (resetTransition s).a = s.a ∧ (resetTransition s).x = s.x ∧ (resetTransition s).y = s.y ∧
    (resetTransition s).sp = s.sp ∧ (interruptTransition vector s).a = s.a ∧ (interruptTransition vector s).x = s.x ∧
    (interruptTransition vector s).y = s.y)

/-- A form that stores nothing leaves every byte of memory as it was (rules R60, R61). What the environment does with
an access is data of the state (notes/assumptions/3.md). -/
def Obligations.NonStoringFormsLeaveMemory : Prop :=
  ∀ (i : Instr) (s t : State), exec i s = .next t →
    (i.operation ∉ [.sta, .stx, .sty, .inc, .dec, .asl, .lsr, .rol, .ror, .pha, .php, .jsr, .brk] ∨ i.operand = .acc) →
    ∀ a : Word, EnvironmentLeaves a s → peek t a = peek s a

/-- A storing form changes at most the byte at its effective address, or the stack bytes it pushes (rules R61, R57,
R210). What the environment does with an access is data of the state (notes/assumptions/3.md). -/
def Obligations.StoringFormsWriteOnlyTheirTarget : Prop :=
  (∀ (i : Instr) (s t : State) (m : MemOperand), exec i s = .next t → i.operand = .mem m →
    i.operation ∈ [.sta, .stx, .sty, .inc, .dec, .asl, .lsr, .rol, .ror] →
    ∀ a : Word, a ≠ (resolve m s).ea → EnvironmentLeaves a s → peek t a = peek s a) ∧
  (∀ (i : Instr) (s t : State), exec i s = .next t → i.operation ∈ [.pha, .php] →
    ∀ a : Word, a ≠ stackAddress s.sp → EnvironmentLeaves a s → peek t a = peek s a) ∧
  (∀ (i : Instr) (s t : State), exec i s = .next t → i.operation = .jsr →
    ∀ a : Word, a ∉ [stackAddress s.sp, stackAddress (s.sp - 1#8)] → EnvironmentLeaves a s → peek t a = peek s a) ∧
  (∀ (i : Instr) (s t : State), exec i s = .next t → i.operation = .brk →
    ∀ a : Word, a ∉ [stackAddress s.sp, stackAddress (s.sp - 1#8), stackAddress (s.sp - 2#8)] → EnvironmentLeaves a s →
      peek t a = peek s a)

/-- Every transition makes exactly the accesses of its class, read or write and where, in order, and no dummy access
(rules R59, R60, R61). No dummy access is the spec's decision D3 (notes/assumptions/13.md), and the record is a field
of the model (notes/assumptions/9.md). -/
def Obligations.AccessSequenceOfEveryTransition : Prop :=
  (∀ (s t u : State) (i : Instr) (bytes : List Byte), RunsInstruction s → decode bytes = .instr i [] →
    portReads (fetchAddresses s i.format.length) (beginTransition s) = (bytes, u) → step s = .next t →
    t.bus.map Access.place =
      readsAt (fetchAddresses s i.format.length) ++
        accessesAfterFetch i { u with pc := s.pc + BitVec.ofNat 16 i.format.length }) ∧
  (∀ (s t : State) (vector : Word),
    chooseTransition (currentBoundary s) s.p.i = .nmi ∧ vector = 0xFFFA#16 ∨
      chooseTransition (currentBoundary s) s.p.i = .irq ∧ vector = 0xFFFE#16 → step s = .next t →
    t.bus.map Access.place =
      writesAt [stackAddress s.sp, stackAddress (s.sp - 1#8), stackAddress (s.sp - 2#8)] ++ readsAt [vector, vector + 1]) ∧
  (∀ (s t : State), chooseTransition (currentBoundary s) s.p.i = .reset → step s = .next t →
    t.bus.map Access.place = readsAt [0xFFFC#16, 0xFFFD#16]) ∧
  (∀ (s t : State) (b : Byte), step s = .fault (.invalidOpcode b t) → t.bus = [.read s.pc b])

/-- A completed step reports the cycles its table gives: base, page-cross penalty, branch taken; a fault reports none
(rules R283, R285). The table is a parameter that the model holds in State (notes/assumptions/8.md). -/
def Obligations.EveryCompletedStepReportsCycles : Prop :=
  (∀ s t : State, step s = .next t → t.cycleTable = s.cycleTable ∧ ∃ n, t.cycles = some n ∧
    (s.cycleTable = Config.defaultCycleTable → 2 ≤ n ∧ n ≤ 7)) ∧
  (∀ (s t : State) (b : Byte), step s = .fault (.invalidOpcode b t) → t.cycleTable = s.cycleTable ∧ t.cycles = none) ∧
  (∀ (i : Instr) (s : State) (c : Condition) (d : Byte), conditionOf i.operation = some c → i.operand = .mem (.rel d) →
    cycleReport i s =
      (timingIn s.cycleTable i).base +
        if c.holds s.p then (if (resolve (.rel d) s).pageCross then 2 else 1) else 0) ∧
  (∀ (i : Instr) (s : State), conditionOf i.operation = none →
    cycleReport i s =
      (timingIn s.cycleTable i).base +
        if (timingIn s.cycleTable i).penalty = true ∧ operandCrosses i.operand s = true then 1 else 0)

/-- The default cycle table has the figures of R284, and a table with a replaced entry has that entry's (rules R284,
R285, R6). The figures are the default table the spec marks as general knowledge (notes/assumptions/8.md). -/
def Obligations.DefaultCycleTableFigures : Prop :=
  (∀ i : Instr,
    (i.operation ∈ [.lda, .and, .ora, .eor, .adc, .sbc, .cmp] → (i.format, timingIn Config.defaultCycleTable i) ∈
      [(.imm, ⟨2, false⟩), (.zp, ⟨3, false⟩), (.zpx, ⟨4, false⟩), (.abs, ⟨4, false⟩), (.abx, ⟨4, true⟩), (.aby, ⟨4, true⟩),
        (.izx, ⟨6, false⟩), (.izy, ⟨5, true⟩)]) ∧
    (i.operation ∈ [.ldx, .ldy] → (i.format, timingIn Config.defaultCycleTable i) ∈
      [(.imm, ⟨2, false⟩), (.zp, ⟨3, false⟩), (.zpx, ⟨4, false⟩), (.zpy, ⟨4, false⟩), (.abs, ⟨4, false⟩), (.abx, ⟨4, true⟩),
        (.aby, ⟨4, true⟩)]) ∧
    (i.operation ∈ [.cpx, .cpy, .bit] → (i.format, timingIn Config.defaultCycleTable i) ∈
      [(.imm, ⟨2, false⟩), (.zp, ⟨3, false⟩), (.abs, ⟨4, false⟩)]) ∧
    (i.operation ∈ [.sta, .stx, .sty] → (i.format, timingIn Config.defaultCycleTable i) ∈
      [(.zp, ⟨3, false⟩), (.zpx, ⟨4, false⟩), (.zpy, ⟨4, false⟩), (.abs, ⟨4, false⟩), (.abx, ⟨5, false⟩), (.aby, ⟨5, false⟩),
        (.izx, ⟨6, false⟩), (.izy, ⟨6, false⟩)]) ∧
    (i.operation ∈ [.asl, .lsr, .rol, .ror, .inc, .dec] → (i.format, timingIn Config.defaultCycleTable i) ∈
      [(.acc, ⟨2, false⟩), (.zp, ⟨5, false⟩), (.zpx, ⟨6, false⟩), (.abs, ⟨6, false⟩), (.abx, ⟨7, false⟩)]) ∧
    (i.operation ∈ [.clc, .cld, .cli, .clv, .sec, .sed, .sei, .nop, .tax, .tay, .txa, .tya, .tsx, .txs, .inx, .iny, .dex, .dey,
        .bcc, .bcs, .beq, .bne, .bmi, .bpl, .bvc, .bvs] → timingIn Config.defaultCycleTable i = ⟨2, false⟩) ∧
    (i.operation ∈ [.pha, .php] → timingIn Config.defaultCycleTable i = ⟨3, false⟩) ∧
    (i.operation ∈ [.pla, .plp] → timingIn Config.defaultCycleTable i = ⟨4, false⟩) ∧
    (i.operation = .jmp → (i.format, timingIn Config.defaultCycleTable i) ∈ [(.abs, ⟨3, false⟩), (.ind, ⟨5, false⟩)]) ∧
    (i.operation ∈ [.jsr, .rts, .rti] → timingIn Config.defaultCycleTable i = ⟨6, false⟩) ∧
    (i.operation = .brk → timingIn Config.defaultCycleTable i = ⟨7, false⟩)) ∧
  Config.defaultCycleTable.interruptEntry = 7 ∧ Config.defaultCycleTable.resetSequence = 7 ∧
  (∀ (T : CycleTable) (b : Byte) (w : Timing) (i : Instr),
    timingIn { T with replaced := (b, w) :: T.replaced } i = if i.opcode = b then w else timingIn T i)

/-- After CLI with irq presented, the IRQ entry is the very next transition (rule R280). -/
def Obligations.IrqIsTakenRightAfterCli : Prop :=
  ∀ (s : State) (b : Boundary) (rest : List Boundary), s.inputs = quietBoundary :: b :: rest → b.reset = false → b.nmi = false →
    b.irq = true → opcodeByte s = 0x58#8 →
    ∃ t u, step s = .next t ∧ t.p = { s.p with i := false } ∧ t.pc = s.pc + 1 ∧ step t = .next u ∧
      u = interruptTransition Config.irqVector (beginTransition t) ∧ u.p.i = true ∧ u.bus.head? =
        some (.write (stackAddress s.sp) (highByte (s.pc + 1)))

/-- Two canonical memories that hold the same byte at every address are the same list (rules R52, R34). The canonical
form is the model's choice (notes/assumptions/2.md). -/
def Obligations.CanonicalMemoriesAreDeterminedByTheirReads : Prop :=
  ∀ s t : State, s.Inv → t.Inv → (∀ a : Word, peek s a = peek t a) → s.mem = t.mem

/-- A byte stored by STA is the opcode the next instruction fetch at that address reads (rule R66). What the
environment does with an access is data of the state (notes/assumptions/3.md). -/
def Obligations.StoresAreSeenByTheNextFetch : Prop :=
  ∀ (i : Instr) (s t : State) (m : MemOperand), s.Inv → PlainRam s → i.operation = .sta → i.operand = .mem m →
    (resolve m s).ea = s.pc → exec i s = .next t → (fetch8 t).1 = s.a

/-- The byte images of P: layout, bit 5 always 1, and what from_byte takes from a byte (rules R27, R28, R29). -/
def Obligations.HostViewOfStatus : Prop :=
  (∀ (p : Status) (b : Bool) (k : Nat), (statusByte b p).getLsbD k =
    if k = 7 then p.n else if k = 6 then p.v else if k = 5 then true else if k = 4 then b else if k = 3 then p.d
    else if k = 2 then p.i else if k = 1 then p.z else if k = 0 then p.c else false) ∧
  (∀ p : Status, hostStatus p = statusByte p.b p) ∧
  (∀ v : Byte, statusOfByte v =
    ⟨v.getLsbD 7, v.getLsbD 6, v.getLsbD 4, v.getLsbD 3, v.getLsbD 2, v.getLsbD 1, v.getLsbD 0⟩) ∧
  (∀ v : Byte, hostStatus (statusOfByte v) = v ||| 0x20#8) ∧
  (∀ s t : State, exec .php s = .next t → t.bus = s.bus ++ [.write (stackAddress s.sp) (statusByte true s.p)]) ∧
  (∀ s t : State, exec .brk s = .next t → Access.write (stackAddress (s.sp - 2#8)) (statusByte true s.p) ∈ t.bus) ∧
  (∀ (s t : State) (vector : Word), t = interruptTransition vector s →
    Access.write (stackAddress (s.sp - 2#8)) (statusByte false s.p) ∈ t.bus)
end

