-- ==== Sys2Proof/Laws/Decode.lean ====
section
/-! SUPPORT. Looking up the dispatch table: an entry found is an entry of its row, under its own byte, and builds instructions
of the length its template says. -/

namespace Sys2Proof

/-- A lookup finds only what the list holds under that key. -/
theorem findRow_mem {n : Nat} {t : Template} : ∀ {rows : List (Nat × Template)}, findRow rows n = some t → (n, t) ∈ rows
  | [], h => by cases h
  | (k, u) :: rest, h => by
    rw [findRow] at h
    split at h
    · simp_all
    · exact List.mem_cons_of_mem _ (findRow_mem h)

/-- An assigned byte's entry is in the row of its high digit (R87). -/
theorem dispatchTable_mem {b0 : Byte} {t : Template} (h : dispatchTable b0 = some t) :
    (b0.toNat, t) ∈ opcodeRow (b0.toNat / 16) := findRow_mem h

/-- The instructions a template builds have the length its operand bytes give (R80, R82). -/
def Template.HasLength : Template → Prop
  | .bare i => i.format.length = 1
  | .byte f => ∀ v, (f v).format.length = 2
  | .word f => ∀ v, (f v).format.length = 3

theorem opcodeRow0_length : ∀ r ∈ opcodeRow0, r.2.HasLength := by
  simp [opcodeRow0, Template.HasLength, Instr.format, Instr.operand, Operand.format, MemOperand.format, Format.length,
    Format.operandBytes]
theorem opcodeRow1_length : ∀ r ∈ opcodeRow1, r.2.HasLength := by
  simp [opcodeRow1, Template.HasLength, Instr.format, Instr.operand, Operand.format, MemOperand.format, Format.length,
    Format.operandBytes]
theorem opcodeRow2_length : ∀ r ∈ opcodeRow2, r.2.HasLength := by
  simp [opcodeRow2, Template.HasLength, Instr.format, Instr.operand, Operand.format, MemOperand.format, Format.length,
    Format.operandBytes]
theorem opcodeRow3_length : ∀ r ∈ opcodeRow3, r.2.HasLength := by
  simp [opcodeRow3, Template.HasLength, Instr.format, Instr.operand, Operand.format, MemOperand.format, Format.length,
    Format.operandBytes]
theorem opcodeRow4_length : ∀ r ∈ opcodeRow4, r.2.HasLength := by
  simp [opcodeRow4, Template.HasLength, Instr.format, Instr.operand, Operand.format, MemOperand.format, Format.length,
    Format.operandBytes]
theorem opcodeRow5_length : ∀ r ∈ opcodeRow5, r.2.HasLength := by
  simp [opcodeRow5, Template.HasLength, Instr.format, Instr.operand, Operand.format, MemOperand.format, Format.length,
    Format.operandBytes]
theorem opcodeRow6_length : ∀ r ∈ opcodeRow6, r.2.HasLength := by
  simp [opcodeRow6, Template.HasLength, Instr.format, Instr.operand, Operand.format, MemOperand.format, Format.length,
    Format.operandBytes]
theorem opcodeRow7_length : ∀ r ∈ opcodeRow7, r.2.HasLength := by
  simp [opcodeRow7, Template.HasLength, Instr.format, Instr.operand, Operand.format, MemOperand.format, Format.length,
    Format.operandBytes]
theorem opcodeRow8_length : ∀ r ∈ opcodeRow8, r.2.HasLength := by
  simp [opcodeRow8, Template.HasLength, Instr.format, Instr.operand, Operand.format, MemOperand.format, Format.length,
    Format.operandBytes]
theorem opcodeRow9_length : ∀ r ∈ opcodeRow9, r.2.HasLength := by
  simp [opcodeRow9, Template.HasLength, Instr.format, Instr.operand, Operand.format, MemOperand.format, Format.length,
    Format.operandBytes]
theorem opcodeRowA_length : ∀ r ∈ opcodeRowA, r.2.HasLength := by
  simp [opcodeRowA, Template.HasLength, Instr.format, Instr.operand, Operand.format, MemOperand.format, Format.length,
    Format.operandBytes]
theorem opcodeRowB_length : ∀ r ∈ opcodeRowB, r.2.HasLength := by
  simp [opcodeRowB, Template.HasLength, Instr.format, Instr.operand, Operand.format, MemOperand.format, Format.length,
    Format.operandBytes]
theorem opcodeRowC_length : ∀ r ∈ opcodeRowC, r.2.HasLength := by
  simp [opcodeRowC, Template.HasLength, Instr.format, Instr.operand, Operand.format, MemOperand.format, Format.length,
    Format.operandBytes]
theorem opcodeRowD_length : ∀ r ∈ opcodeRowD, r.2.HasLength := by
  simp [opcodeRowD, Template.HasLength, Instr.format, Instr.operand, Operand.format, MemOperand.format, Format.length,
    Format.operandBytes]
theorem opcodeRowE_length : ∀ r ∈ opcodeRowE, r.2.HasLength := by
  simp [opcodeRowE, Template.HasLength, Instr.format, Instr.operand, Operand.format, MemOperand.format, Format.length,
    Format.operandBytes]
theorem opcodeRowF_length : ∀ r ∈ opcodeRowF, r.2.HasLength := by
  simp [opcodeRowF, Template.HasLength, Instr.format, Instr.operand, Operand.format, MemOperand.format, Format.length,
    Format.operandBytes]

theorem opcodeRow_length : ∀ h : Nat, ∀ r ∈ opcodeRow h, r.2.HasLength
  | 0x0 => opcodeRow0_length
  | 0x1 => opcodeRow1_length
  | 0x2 => opcodeRow2_length
  | 0x3 => opcodeRow3_length
  | 0x4 => opcodeRow4_length
  | 0x5 => opcodeRow5_length
  | 0x6 => opcodeRow6_length
  | 0x7 => opcodeRow7_length
  | 0x8 => opcodeRow8_length
  | 0x9 => opcodeRow9_length
  | 0xA => opcodeRowA_length
  | 0xB => opcodeRowB_length
  | 0xC => opcodeRowC_length
  | 0xD => opcodeRowD_length
  | 0xE => opcodeRowE_length
  | 0xF => opcodeRowF_length
  | _ + 16 => fun _ h => absurd h List.not_mem_nil

/-- An assigned byte's entry builds instructions of the length its template says. -/
theorem dispatchTable_length {b0 : Byte} {t : Template} (h : dispatchTable b0 = some t) : t.HasLength :=
  opcodeRow_length _ _ (dispatchTable_mem h)

end Sys2Proof
end

