-- ==== Sys2Proof/Laws/Memory.lean ====
section
/-! SUPPORT. Memory in canonical form: what a write does to every later read, that every memory operation keeps the form, and that
two canonical memories with the same reads are the same list. -/

namespace Sys2Proof.Machine

theorem Memory.wfFrom_weaken {lo lo' : Nat} (h : lo ≤ lo') : ∀ {m : Memory}, Memory.wfFrom lo' m = true → Memory.wfFrom lo m = true
  | [], _ => rfl
  | (k, v) :: rest, hm => by
    simp only [Memory.wfFrom, Bool.and_eq_true, decide_eq_true_eq] at hm ⊢
    exact ⟨⟨⟨by omega, hm.1.1.2⟩, hm.1.2⟩, hm.2⟩

/-- Below its first address a canonical memory lists nothing. -/
theorem Memory.read_below {a : Nat} : ∀ {lo : Nat} {m : Memory}, Memory.wfFrom lo m = true → a < lo →
    Memory.read m a = Config.unlistedByte
  | _, [], _, _ => rfl
  | lo, (k, v) :: rest, hm, ha => by
    simp only [Memory.wfFrom, Bool.and_eq_true, decide_eq_true_eq] at hm
    have hk : k ≠ a := by omega
    simpa [Memory.read, hk] using Memory.read_below (lo := k + 1) hm.2 (by omega)

theorem Memory.read_put_same (a : Nat) (v : Byte) {rest : Memory} (h : Memory.read rest a = Config.unlistedByte) :
    Memory.read (Memory.put a v rest) a = v := by
  unfold Memory.put
  split
  · rw [h]; exact (‹v = Config.unlistedByte›).symm
  · simp [Memory.read]

theorem Memory.read_put_other {a b : Nat} (hab : b ≠ a) (v : Byte) (rest : Memory) :
    Memory.read (Memory.put a v rest) b = Memory.read rest b := by
  unfold Memory.put
  split
  · rfl
  · simp [Memory.read, Ne.symm hab]

/-- A write leaves every other address alone, whatever the list. -/
theorem Memory.read_write_other {a b : Nat} (hab : b ≠ a) (v : Byte) :
    ∀ m : Memory, Memory.read (Memory.write m a v) b = Memory.read m b
  | [] => Memory.read_put_other hab v []
  | (k, w) :: rest => by
    unfold Memory.write
    split
    · exact Memory.read_put_other hab v _
    · split
      · subst ‹a = k›
        rw [Memory.read_put_other hab]
        simp [Memory.read, Ne.symm hab]
      · simp [Memory.read, Memory.read_write_other hab v rest]

theorem Memory.read_write_sameFrom (a : Nat) (v : Byte) : ∀ {lo : Nat} {m : Memory}, Memory.wfFrom lo m = true →
    Memory.read (Memory.write m a v) a = v
  | _, [], _ => Memory.read_put_same a v rfl
  | lo, (k, w) :: rest, hm => by
    have hm' := hm
    simp only [Memory.wfFrom, Bool.and_eq_true, decide_eq_true_eq] at hm
    unfold Memory.write
    split
    · refine Memory.read_put_same a v (Memory.read_below (lo := k) ?_ (by assumption))
      simp only [Memory.wfFrom, Bool.and_eq_true, decide_eq_true_eq]
      exact ⟨⟨⟨Nat.le_refl k, hm.1.1.2⟩, hm.1.2⟩, hm.2⟩
    · split
      · exact Memory.read_put_same a v (Memory.read_below hm.2 (by omega))
      · have hk : k ≠ a := fun h => ‹¬a = k› h.symm
        simpa [Memory.read, hk] using Memory.read_write_sameFrom a v hm.2

/-- A read after a write to the same address gives the value written (R52). -/
theorem Memory.read_write_same {m : Memory} (hm : Memory.wf m = true) (a : Nat) (v : Byte) :
    Memory.read (Memory.write m a v) a = v := Memory.read_write_sameFrom a v hm

theorem Memory.wfFrom_put {lo a : Nat} (v : Byte) {rest : Memory} (hlo : lo ≤ a) (ha : a < 65536)
    (h : Memory.wfFrom (a + 1) rest = true) : Memory.wfFrom lo (Memory.put a v rest) = true := by
  unfold Memory.put
  split
  · exact Memory.wfFrom_weaken (by omega) h
  · simp [Memory.wfFrom, hlo, ha, h, ‹¬v = Config.unlistedByte›]

theorem Memory.wfFrom_write {a : Nat} (ha : a < 65536) (v : Byte) : ∀ {lo : Nat} {m : Memory}, lo ≤ a →
    Memory.wfFrom lo m = true → Memory.wfFrom lo (Memory.write m a v) = true
  | _, [], hlo, _ => Memory.wfFrom_put v hlo ha rfl
  | lo, (k, w) :: rest, hlo, hm => by
    simp only [Memory.wfFrom, Bool.and_eq_true, decide_eq_true_eq] at hm
    unfold Memory.write
    split
    · refine Memory.wfFrom_put v hlo ha ?_
      simp only [Memory.wfFrom, Bool.and_eq_true, decide_eq_true_eq]
      exact ⟨⟨⟨by omega, hm.1.1.2⟩, hm.1.2⟩, hm.2⟩
    · split
      · subst ‹a = k›
        exact Memory.wfFrom_put v hlo ha hm.2
      · simp only [Memory.wfFrom, Bool.and_eq_true, decide_eq_true_eq]
        exact ⟨⟨⟨hm.1.1.1, hm.1.1.2⟩, hm.1.2⟩, Memory.wfFrom_write ha v (by omega) hm.2⟩

/-- A write at an address of the machine keeps the canonical form. -/
theorem Memory.wf_write {m : Memory} (hm : Memory.wf m = true) (a : Word) (v : Byte) :
    Memory.wf (Memory.write m a.toNat v) = true := Memory.wfFrom_write a.isLt v (Nat.zero_le _) hm

/-- The host's changes keep the canonical form. -/
theorem Memory.wf_applyHostWrites : ∀ (l : List (Word × Byte)) {m : Memory}, Memory.wf m = true →
    Memory.wf (applyHostWrites l m) = true
  | [], _, hm => hm
  | (a, v) :: rest, _, hm => Memory.wf_applyHostWrites rest (Memory.wf_write hm a v)

/-- Placing bytes keeps the canonical form. -/
theorem Memory.wf_placeBytes : ∀ (l : List Byte) (a : Word) {m : Memory}, Memory.wf m = true →
    Memory.wf (placeBytes l a m) = true
  | [], _, _, hm => hm
  | b :: rest, a, _, hm => Memory.wf_placeBytes rest (a + 1) (Memory.wf_write hm a b)

/-- The memory of State.reset is in canonical form. -/
theorem Memory.wf_reset : Memory.wf State.reset.mem = true := rfl

/-- A listed address of a canonical memory does not read as an unlisted one. -/
theorem Memory.read_head {lo k : Nat} {v : Byte} {rest : Memory} (hm : Memory.wfFrom lo ((k, v) :: rest) = true) :
    Memory.read ((k, v) :: rest) k ≠ Config.unlistedByte := by
  simp only [Memory.wfFrom, Bool.and_eq_true, bne_iff_ne] at hm
  simpa [Memory.read] using hm.1.2

theorem Memory.eq_of_readFrom : ∀ {lo : Nat} {m n : Memory}, Memory.wfFrom lo m = true → Memory.wfFrom lo n = true →
    (∀ a, Memory.read m a = Memory.read n a) → m = n
  | _, [], [], _, _, _ => rfl
  | _, [], (k, v) :: rest, _, hn, h => absurd (h k).symm (Memory.read_head hn)
  | _, (k, v) :: rest, [], hm, _, h => absurd (h k) (Memory.read_head hm)
  | lo, (k, v) :: rest, (j, w) :: rest', hm, hn, h => by
    have hm' := hm
    have hn' := hn
    simp only [Memory.wfFrom, Bool.and_eq_true, decide_eq_true_eq, bne_iff_ne] at hm hn
    have hkj : k = j := by
      rcases Nat.lt_trichotomy k j with hlt | heq | hgt
      · refine absurd ((h k).trans ?_) (Memory.read_head hm')
        have hjk : j ≠ k := by omega
        simpa [Memory.read, hjk] using Memory.read_below hn.2 (by omega)
      · exact heq
      · refine absurd ((h j).symm.trans ?_) (Memory.read_head hn')
        have hkj' : k ≠ j := by omega
        simpa [Memory.read, hkj'] using Memory.read_below hm.2 (by omega)
    subst hkj
    have hvw : v = w := by simpa [Memory.read] using h k
    subst hvw
    have hrest : rest = rest' := by
      refine Memory.eq_of_readFrom hm.2 hn.2 fun a => ?_
      by_cases hak : k = a
      · subst hak
        rw [Memory.read_below hm.2 (by omega), Memory.read_below hn.2 (by omega)]
      · simpa [Memory.read, hak] using h a
    rw [hrest]

/-- Equal memories are equal data: two canonical memories that read the same everywhere are the same list. -/
theorem Memory.eq_of_read {m n : Memory} (hm : Memory.wf m = true) (hn : Memory.wf n = true)
    (h : ∀ a, Memory.read m a = Memory.read n a) : m = n := Memory.eq_of_readFrom hm hn h

end Sys2Proof.Machine
end

