-- ==== Sys2Proof/Laws/State.lean ====
section
/-! SUPPORT. One lemma per field per update of State, true by rfl, so that no later proof unfolds a record update. -/

namespace Sys2Proof.Machine

@[simp] theorem State.setReg_a (s : State) (r : Reg) (v : Byte) : (s.setReg r v).a = if r = .a then v else s.a := by
  cases r <;> rfl
@[simp] theorem State.setReg_x (s : State) (r : Reg) (v : Byte) : (s.setReg r v).x = if r = .x then v else s.x := by
  cases r <;> rfl
@[simp] theorem State.setReg_y (s : State) (r : Reg) (v : Byte) : (s.setReg r v).y = if r = .y then v else s.y := by
  cases r <;> rfl
@[simp] theorem State.setReg_sp (s : State) (r : Reg) (v : Byte) : (s.setReg r v).sp = if r = .sp then v else s.sp := by
  cases r <;> rfl
@[simp] theorem State.setReg_pc (s : State) (r : Reg) (v : Byte) : (s.setReg r v).pc = s.pc := by
  cases r <;> rfl
@[simp] theorem State.setReg_p (s : State) (r : Reg) (v : Byte) : (s.setReg r v).p = s.p := by
  cases r <;> rfl
@[simp] theorem State.setReg_mem (s : State) (r : Reg) (v : Byte) : (s.setReg r v).mem = s.mem := by
  cases r <;> rfl
@[simp] theorem State.setReg_inputs (s : State) (r : Reg) (v : Byte) : (s.setReg r v).inputs = s.inputs := by
  cases r <;> rfl
@[simp] theorem State.setReg_responses (s : State) (r : Reg) (v : Byte) : (s.setReg r v).responses = s.responses := by
  cases r <;> rfl
@[simp] theorem State.setReg_cycleTable (s : State) (r : Reg) (v : Byte) : (s.setReg r v).cycleTable = s.cycleTable := by
  cases r <;> rfl
@[simp] theorem State.setReg_bus (s : State) (r : Reg) (v : Byte) : (s.setReg r v).bus = s.bus := by
  cases r <;> rfl
@[simp] theorem State.setReg_cycles (s : State) (r : Reg) (v : Byte) : (s.setReg r v).cycles = s.cycles := by
  cases r <;> rfl
@[simp] theorem State.reg_setReg (s : State) (r q : Reg) (v : Byte) :
    (s.setReg r v).reg q = if r = q then v else s.reg q := by
  cases r <;> cases q <;> rfl

@[simp] theorem State.setPc_a (s : State) (v : Word) : (s.setPc v).a = s.a := rfl
@[simp] theorem State.setPc_x (s : State) (v : Word) : (s.setPc v).x = s.x := rfl
@[simp] theorem State.setPc_y (s : State) (v : Word) : (s.setPc v).y = s.y := rfl
@[simp] theorem State.setPc_sp (s : State) (v : Word) : (s.setPc v).sp = s.sp := rfl
@[simp] theorem State.setPc_pc (s : State) (v : Word) : (s.setPc v).pc = v := rfl
@[simp] theorem State.setPc_p (s : State) (v : Word) : (s.setPc v).p = s.p := rfl
@[simp] theorem State.setPc_mem (s : State) (v : Word) : (s.setPc v).mem = s.mem := rfl
@[simp] theorem State.setPc_inputs (s : State) (v : Word) : (s.setPc v).inputs = s.inputs := rfl
@[simp] theorem State.setPc_responses (s : State) (v : Word) : (s.setPc v).responses = s.responses := rfl
@[simp] theorem State.setPc_cycleTable (s : State) (v : Word) : (s.setPc v).cycleTable = s.cycleTable := rfl
@[simp] theorem State.setPc_bus (s : State) (v : Word) : (s.setPc v).bus = s.bus := rfl
@[simp] theorem State.setPc_cycles (s : State) (v : Word) : (s.setPc v).cycles = s.cycles := rfl
@[simp] theorem State.reg_setPc (s : State) (v : Word) (r : Reg) : (s.setPc v).reg r = s.reg r := by
  cases r <;> rfl

@[simp] theorem State.setP_a (s : State) (v : Status) : (s.setP v).a = s.a := rfl
@[simp] theorem State.setP_x (s : State) (v : Status) : (s.setP v).x = s.x := rfl
@[simp] theorem State.setP_y (s : State) (v : Status) : (s.setP v).y = s.y := rfl
@[simp] theorem State.setP_sp (s : State) (v : Status) : (s.setP v).sp = s.sp := rfl
@[simp] theorem State.setP_pc (s : State) (v : Status) : (s.setP v).pc = s.pc := rfl
@[simp] theorem State.setP_p (s : State) (v : Status) : (s.setP v).p = v := rfl
@[simp] theorem State.setP_mem (s : State) (v : Status) : (s.setP v).mem = s.mem := rfl
@[simp] theorem State.setP_inputs (s : State) (v : Status) : (s.setP v).inputs = s.inputs := rfl
@[simp] theorem State.setP_responses (s : State) (v : Status) : (s.setP v).responses = s.responses := rfl
@[simp] theorem State.setP_cycleTable (s : State) (v : Status) : (s.setP v).cycleTable = s.cycleTable := rfl
@[simp] theorem State.setP_bus (s : State) (v : Status) : (s.setP v).bus = s.bus := rfl
@[simp] theorem State.setP_cycles (s : State) (v : Status) : (s.setP v).cycles = s.cycles := rfl
@[simp] theorem State.reg_setP (s : State) (v : Status) (r : Reg) : (s.setP v).reg r = s.reg r := by
  cases r <;> rfl

@[simp] theorem State.setMem_a (s : State) (v : Memory) : (s.setMem v).a = s.a := rfl
@[simp] theorem State.setMem_x (s : State) (v : Memory) : (s.setMem v).x = s.x := rfl
@[simp] theorem State.setMem_y (s : State) (v : Memory) : (s.setMem v).y = s.y := rfl
@[simp] theorem State.setMem_sp (s : State) (v : Memory) : (s.setMem v).sp = s.sp := rfl
@[simp] theorem State.setMem_pc (s : State) (v : Memory) : (s.setMem v).pc = s.pc := rfl
@[simp] theorem State.setMem_p (s : State) (v : Memory) : (s.setMem v).p = s.p := rfl
@[simp] theorem State.setMem_mem (s : State) (v : Memory) : (s.setMem v).mem = v := rfl
@[simp] theorem State.setMem_inputs (s : State) (v : Memory) : (s.setMem v).inputs = s.inputs := rfl
@[simp] theorem State.setMem_responses (s : State) (v : Memory) : (s.setMem v).responses = s.responses := rfl
@[simp] theorem State.setMem_cycleTable (s : State) (v : Memory) : (s.setMem v).cycleTable = s.cycleTable := rfl
@[simp] theorem State.setMem_bus (s : State) (v : Memory) : (s.setMem v).bus = s.bus := rfl
@[simp] theorem State.setMem_cycles (s : State) (v : Memory) : (s.setMem v).cycles = s.cycles := rfl
@[simp] theorem State.reg_setMem (s : State) (v : Memory) (r : Reg) : (s.setMem v).reg r = s.reg r := by
  cases r <;> rfl

@[simp] theorem State.setInputs_a (s : State) (v : List Boundary) : (s.setInputs v).a = s.a := rfl
@[simp] theorem State.setInputs_x (s : State) (v : List Boundary) : (s.setInputs v).x = s.x := rfl
@[simp] theorem State.setInputs_y (s : State) (v : List Boundary) : (s.setInputs v).y = s.y := rfl
@[simp] theorem State.setInputs_sp (s : State) (v : List Boundary) : (s.setInputs v).sp = s.sp := rfl
@[simp] theorem State.setInputs_pc (s : State) (v : List Boundary) : (s.setInputs v).pc = s.pc := rfl
@[simp] theorem State.setInputs_p (s : State) (v : List Boundary) : (s.setInputs v).p = s.p := rfl
@[simp] theorem State.setInputs_mem (s : State) (v : List Boundary) : (s.setInputs v).mem = s.mem := rfl
@[simp] theorem State.setInputs_inputs (s : State) (v : List Boundary) : (s.setInputs v).inputs = v := rfl
@[simp] theorem State.setInputs_responses (s : State) (v : List Boundary) : (s.setInputs v).responses = s.responses := rfl
@[simp] theorem State.setInputs_cycleTable (s : State) (v : List Boundary) : (s.setInputs v).cycleTable = s.cycleTable := rfl
@[simp] theorem State.setInputs_bus (s : State) (v : List Boundary) : (s.setInputs v).bus = s.bus := rfl
@[simp] theorem State.setInputs_cycles (s : State) (v : List Boundary) : (s.setInputs v).cycles = s.cycles := rfl
@[simp] theorem State.reg_setInputs (s : State) (v : List Boundary) (r : Reg) : (s.setInputs v).reg r = s.reg r := by
  cases r <;> rfl

@[simp] theorem State.setResponses_a (s : State) (v : List Response) : (s.setResponses v).a = s.a := rfl
@[simp] theorem State.setResponses_x (s : State) (v : List Response) : (s.setResponses v).x = s.x := rfl
@[simp] theorem State.setResponses_y (s : State) (v : List Response) : (s.setResponses v).y = s.y := rfl
@[simp] theorem State.setResponses_sp (s : State) (v : List Response) : (s.setResponses v).sp = s.sp := rfl
@[simp] theorem State.setResponses_pc (s : State) (v : List Response) : (s.setResponses v).pc = s.pc := rfl
@[simp] theorem State.setResponses_p (s : State) (v : List Response) : (s.setResponses v).p = s.p := rfl
@[simp] theorem State.setResponses_mem (s : State) (v : List Response) : (s.setResponses v).mem = s.mem := rfl
@[simp] theorem State.setResponses_inputs (s : State) (v : List Response) : (s.setResponses v).inputs = s.inputs := rfl
@[simp] theorem State.setResponses_responses (s : State) (v : List Response) : (s.setResponses v).responses = v := rfl
@[simp] theorem State.setResponses_cycleTable (s : State) (v : List Response) : (s.setResponses v).cycleTable = s.cycleTable := rfl
@[simp] theorem State.setResponses_bus (s : State) (v : List Response) : (s.setResponses v).bus = s.bus := rfl
@[simp] theorem State.setResponses_cycles (s : State) (v : List Response) : (s.setResponses v).cycles = s.cycles := rfl
@[simp] theorem State.reg_setResponses (s : State) (v : List Response) (r : Reg) : (s.setResponses v).reg r = s.reg r := by
  cases r <;> rfl

@[simp] theorem State.setBus_a (s : State) (v : List Access) : (s.setBus v).a = s.a := rfl
@[simp] theorem State.setBus_x (s : State) (v : List Access) : (s.setBus v).x = s.x := rfl
@[simp] theorem State.setBus_y (s : State) (v : List Access) : (s.setBus v).y = s.y := rfl
@[simp] theorem State.setBus_sp (s : State) (v : List Access) : (s.setBus v).sp = s.sp := rfl
@[simp] theorem State.setBus_pc (s : State) (v : List Access) : (s.setBus v).pc = s.pc := rfl
@[simp] theorem State.setBus_p (s : State) (v : List Access) : (s.setBus v).p = s.p := rfl
@[simp] theorem State.setBus_mem (s : State) (v : List Access) : (s.setBus v).mem = s.mem := rfl
@[simp] theorem State.setBus_inputs (s : State) (v : List Access) : (s.setBus v).inputs = s.inputs := rfl
@[simp] theorem State.setBus_responses (s : State) (v : List Access) : (s.setBus v).responses = s.responses := rfl
@[simp] theorem State.setBus_cycleTable (s : State) (v : List Access) : (s.setBus v).cycleTable = s.cycleTable := rfl
@[simp] theorem State.setBus_bus (s : State) (v : List Access) : (s.setBus v).bus = v := rfl
@[simp] theorem State.setBus_cycles (s : State) (v : List Access) : (s.setBus v).cycles = s.cycles := rfl
@[simp] theorem State.reg_setBus (s : State) (v : List Access) (r : Reg) : (s.setBus v).reg r = s.reg r := by
  cases r <;> rfl

@[simp] theorem State.setCycles_a (s : State) (v : Option Nat) : (s.setCycles v).a = s.a := rfl
@[simp] theorem State.setCycles_x (s : State) (v : Option Nat) : (s.setCycles v).x = s.x := rfl
@[simp] theorem State.setCycles_y (s : State) (v : Option Nat) : (s.setCycles v).y = s.y := rfl
@[simp] theorem State.setCycles_sp (s : State) (v : Option Nat) : (s.setCycles v).sp = s.sp := rfl
@[simp] theorem State.setCycles_pc (s : State) (v : Option Nat) : (s.setCycles v).pc = s.pc := rfl
@[simp] theorem State.setCycles_p (s : State) (v : Option Nat) : (s.setCycles v).p = s.p := rfl
@[simp] theorem State.setCycles_mem (s : State) (v : Option Nat) : (s.setCycles v).mem = s.mem := rfl
@[simp] theorem State.setCycles_inputs (s : State) (v : Option Nat) : (s.setCycles v).inputs = s.inputs := rfl
@[simp] theorem State.setCycles_responses (s : State) (v : Option Nat) : (s.setCycles v).responses = s.responses := rfl
@[simp] theorem State.setCycles_cycleTable (s : State) (v : Option Nat) : (s.setCycles v).cycleTable = s.cycleTable := rfl
@[simp] theorem State.setCycles_bus (s : State) (v : Option Nat) : (s.setCycles v).bus = s.bus := rfl
@[simp] theorem State.setCycles_cycles (s : State) (v : Option Nat) : (s.setCycles v).cycles = v := rfl
@[simp] theorem State.reg_setCycles (s : State) (v : Option Nat) (r : Reg) : (s.setCycles v).reg r = s.reg r := by
  cases r <;> rfl

@[simp] theorem withPort_a (s t : State) : (withPort s t).a = s.a := rfl
@[simp] theorem withPort_x (s t : State) : (withPort s t).x = s.x := rfl
@[simp] theorem withPort_y (s t : State) : (withPort s t).y = s.y := rfl
@[simp] theorem withPort_sp (s t : State) : (withPort s t).sp = s.sp := rfl
@[simp] theorem withPort_pc (s t : State) : (withPort s t).pc = s.pc := rfl
@[simp] theorem withPort_p (s t : State) : (withPort s t).p = s.p := rfl
@[simp] theorem withPort_mem (s t : State) : (withPort s t).mem = t.mem := rfl
@[simp] theorem withPort_inputs (s t : State) : (withPort s t).inputs = s.inputs := rfl
@[simp] theorem withPort_responses (s t : State) : (withPort s t).responses = t.responses := rfl
@[simp] theorem withPort_cycleTable (s t : State) : (withPort s t).cycleTable = s.cycleTable := rfl
@[simp] theorem withPort_bus (s t : State) : (withPort s t).bus = t.bus := rfl
@[simp] theorem withPort_cycles (s t : State) : (withPort s t).cycles = s.cycles := rfl
@[simp] theorem reg_withPort (s t : State) (r : Reg) : (withPort s t).reg r = s.reg r := by cases r <;> rfl

@[simp] theorem State.reg_a (s : State) : s.reg .a = s.a := rfl
@[simp] theorem State.reg_x (s : State) : s.reg .x = s.x := rfl
@[simp] theorem State.reg_y (s : State) : s.reg .y = s.y := rfl
@[simp] theorem State.reg_sp (s : State) : s.reg .sp = s.sp := rfl

/-- Two states with equal fields are equal. -/
theorem State.ext_fields {s t : State} (ha : s.a = t.a) (hx : s.x = t.x) (hy : s.y = t.y) (hsp : s.sp = t.sp)
    (hpc : s.pc = t.pc) (hp : s.p = t.p) (hmem : s.mem = t.mem) (hin : s.inputs = t.inputs)
    (hres : s.responses = t.responses) (htab : s.cycleTable = t.cycleTable) (hbus : s.bus = t.bus)
    (hcy : s.cycles = t.cycles) : s = t := by
  cases s
  cases t
  simp_all

/-- Two status registers with equal flags are equal. -/
theorem Status.ext_flags {p q : Status} (hn : p.n = q.n) (hv : p.v = q.v) (hb : p.b = q.b) (hd : p.d = q.d) (hi : p.i = q.i)
    (hz : p.z = q.z) (hc : p.c = q.c) : p = q := by
  cases p
  cases q
  simp_all

end Sys2Proof.Machine
end

