-- ==== Sys2Proof/Laws/Ops.lean ====
section
/-! SUPPORT. What each shared operation does, said once: the memory port, fetches, pushes and pulls, the interrupt entry and the
return from it, the RESET sequence. Provers cite these and do not unfold the operations. -/

namespace Sys2Proof.Machine

/-! Byte order. -/

/-- `hi:lo` as a number (R9). -/
theorem joinBytes_toNat (hi lo : Byte) : (joinBytes hi lo).toNat = 256 * hi.toNat + lo.toNat := by
  have hhi := hi.isLt
  have hlo := lo.isLt
  have hor := Nat.shiftLeft_add_eq_or_of_lt (i := 8) hlo hi.toNat
  simp only [joinBytes, BitVec.toNat_or, BitVec.toNat_shiftLeft, BitVec.toNat_setWidth]
  rw [Nat.mod_eq_of_lt (show hi.toNat < 2 ^ 16 by omega), Nat.mod_eq_of_lt (show lo.toNat < 2 ^ 16 by omega),
    Nat.mod_eq_of_lt (show hi.toNat <<< 8 < 2 ^ 16 by rw [Nat.shiftLeft_eq]; omega), ← hor, Nat.shiftLeft_eq]
  omega

theorem lowByte_toNat (w : Word) : (lowByte w).toNat = w.toNat % 256 := by simp [lowByte]

theorem highByte_toNat (w : Word) : (highByte w).toNat = w.toNat / 256 := by
  have := w.isLt
  simp [highByte, Nat.shiftRight_eq_div_pow]
  omega

@[simp] theorem joinBytes_high_low (w : Word) : joinBytes (highByte w) (lowByte w) = w := by
  apply BitVec.eq_of_toNat_eq
  rw [joinBytes_toNat, highByte_toNat, lowByte_toNat]
  omega

@[simp] theorem lowByte_joinBytes (hi lo : Byte) : lowByte (joinBytes hi lo) = lo := by
  apply BitVec.eq_of_toNat_eq
  have := lo.isLt
  rw [lowByte_toNat, joinBytes_toNat]
  omega

@[simp] theorem highByte_joinBytes (hi lo : Byte) : highByte (joinBytes hi lo) = hi := by
  apply BitVec.eq_of_toNat_eq
  have := lo.isLt
  rw [highByte_toNat, joinBytes_toNat]
  omega

/-- Every byte address is inside the 64 KiB space (R34). -/
theorem word_lt (a : Word) : a.toNat < 65536 := a.isLt

/-! The memory port. -/

@[simp] theorem busRead_value (a : Word) (s : State) : (busRead a s).1 = answer a s := rfl
@[simp] theorem busRead_a (a : Word) (s : State) : (busRead a s).2.a = s.a := rfl
@[simp] theorem busRead_x (a : Word) (s : State) : (busRead a s).2.x = s.x := rfl
@[simp] theorem busRead_y (a : Word) (s : State) : (busRead a s).2.y = s.y := rfl
@[simp] theorem busRead_sp (a : Word) (s : State) : (busRead a s).2.sp = s.sp := rfl
@[simp] theorem busRead_pc (a : Word) (s : State) : (busRead a s).2.pc = s.pc := rfl
@[simp] theorem busRead_p (a : Word) (s : State) : (busRead a s).2.p = s.p := rfl
@[simp] theorem busRead_inputs (a : Word) (s : State) : (busRead a s).2.inputs = s.inputs := rfl
@[simp] theorem busRead_cycleTable (a : Word) (s : State) : (busRead a s).2.cycleTable = s.cycleTable := rfl
@[simp] theorem busRead_cycles (a : Word) (s : State) : (busRead a s).2.cycles = s.cycles := rfl
@[simp] theorem busRead_mem (a : Word) (s : State) : (busRead a s).2.mem = memoryAfterRead s := rfl
@[simp] theorem busRead_responses (a : Word) (s : State) : (busRead a s).2.responses = s.responses.tail := rfl
@[simp] theorem busRead_bus (a : Word) (s : State) : (busRead a s).2.bus = s.bus ++ [.read a (answer a s)] := rfl
@[simp] theorem reg_busRead (a : Word) (s : State) (r : Reg) : (busRead a s).2.reg r = s.reg r := by cases r <;> rfl

@[simp] theorem busWrite_a (a : Word) (v : Byte) (s : State) : (busWrite a v s).a = s.a := rfl
@[simp] theorem busWrite_x (a : Word) (v : Byte) (s : State) : (busWrite a v s).x = s.x := rfl
@[simp] theorem busWrite_y (a : Word) (v : Byte) (s : State) : (busWrite a v s).y = s.y := rfl
@[simp] theorem busWrite_sp (a : Word) (v : Byte) (s : State) : (busWrite a v s).sp = s.sp := rfl
@[simp] theorem busWrite_pc (a : Word) (v : Byte) (s : State) : (busWrite a v s).pc = s.pc := rfl
@[simp] theorem busWrite_p (a : Word) (v : Byte) (s : State) : (busWrite a v s).p = s.p := rfl
@[simp] theorem busWrite_inputs (a : Word) (v : Byte) (s : State) : (busWrite a v s).inputs = s.inputs := rfl
@[simp] theorem busWrite_cycleTable (a : Word) (v : Byte) (s : State) : (busWrite a v s).cycleTable = s.cycleTable := rfl
@[simp] theorem busWrite_cycles (a : Word) (v : Byte) (s : State) : (busWrite a v s).cycles = s.cycles := rfl
@[simp] theorem busWrite_mem (a : Word) (v : Byte) (s : State) : (busWrite a v s).mem = memoryAfterWrite a v s := rfl
@[simp] theorem busWrite_responses (a : Word) (v : Byte) (s : State) : (busWrite a v s).responses = s.responses.tail := rfl
@[simp] theorem busWrite_bus (a : Word) (v : Byte) (s : State) : (busWrite a v s).bus = s.bus ++ [.write a v] := rfl

/-! A read and a write of something that is not the memory port commute. -/

@[simp] theorem busRead_setReg (a : Word) (s : State) (r : Reg) (v : Byte) :
    (busRead a (s.setReg r v)).2 = (busRead a s).2.setReg r v := by cases r <;> rfl
@[simp] theorem busRead_setP (a : Word) (s : State) (v : Status) : (busRead a (s.setP v)).2 = (busRead a s).2.setP v := rfl
@[simp] theorem busRead_setPc (a : Word) (s : State) (v : Word) : (busRead a (s.setPc v)).2 = (busRead a s).2.setPc v := rfl

/-- A read changes the memory port and nothing else (R50). -/
theorem busRead_withPort (a : Word) (s : State) : withPort s (busRead a s).2 = (busRead a s).2 := rfl

/-- A write changes the memory port and nothing else (R50). -/
theorem busWrite_withPort (a : Word) (v : Byte) (s : State) : withPort s (busWrite a v s) = busWrite a v s := rfl

/-- Two states with the same memory hold the same bytes. -/
theorem peek_congr {s t : State} (h : s.mem = t.mem) (a : Word) : peek s a = peek t a := by unfold peek; rw [h]

/-- What a read is answered depends on memory and the responses to come alone. -/
theorem answer_congr {s t : State} (hm : s.mem = t.mem) (hr : s.responses = t.responses) (a : Word) :
    answer a s = answer a t := by
  unfold answer; rw [hr, peek_congr hm]

/-- So does memory after a read. -/
theorem memoryAfterRead_congr {s t : State} (hm : s.mem = t.mem) (hr : s.responses = t.responses) :
    memoryAfterRead s = memoryAfterRead t := by
  unfold memoryAfterRead; rw [hr, hm]

/-- So does memory after a write. -/
theorem memoryAfterWrite_congr {s t : State} (hm : s.mem = t.mem) (hr : s.responses = t.responses) (a : Word) (v : Byte) :
    memoryAfterWrite a v s = memoryAfterWrite a v t := by
  unfold memoryAfterWrite; rw [hr, hm]

@[simp] theorem peek_setReg (s : State) (r : Reg) (v : Byte) (a : Word) : peek (s.setReg r v) a = peek s a := peek_congr (State.setReg_mem s r v) a
@[simp] theorem answer_setReg (s : State) (r : Reg) (v : Byte) (a : Word) : answer a (s.setReg r v) = answer a s :=
  answer_congr (State.setReg_mem s r v) (State.setReg_responses s r v) a
@[simp] theorem memoryAfterRead_setReg (s : State) (r : Reg) (v : Byte) : memoryAfterRead (s.setReg r v) = memoryAfterRead s :=
  memoryAfterRead_congr (State.setReg_mem s r v) (State.setReg_responses s r v)
@[simp] theorem memoryAfterWrite_setReg (s : State) (r : Reg) (v : Byte) (a : Word) (w : Byte) :
    memoryAfterWrite a w (s.setReg r v) = memoryAfterWrite a w s := memoryAfterWrite_congr (State.setReg_mem s r v) (State.setReg_responses s r v) a w
@[simp] theorem peek_setPc (s : State) (v : Word) (a : Word) : peek (s.setPc v) a = peek s a := peek_congr (State.setPc_mem s v) a
@[simp] theorem answer_setPc (s : State) (v : Word) (a : Word) : answer a (s.setPc v) = answer a s :=
  answer_congr (State.setPc_mem s v) (State.setPc_responses s v) a
@[simp] theorem memoryAfterRead_setPc (s : State) (v : Word) : memoryAfterRead (s.setPc v) = memoryAfterRead s :=
  memoryAfterRead_congr (State.setPc_mem s v) (State.setPc_responses s v)
@[simp] theorem memoryAfterWrite_setPc (s : State) (v : Word) (a : Word) (w : Byte) :
    memoryAfterWrite a w (s.setPc v) = memoryAfterWrite a w s := memoryAfterWrite_congr (State.setPc_mem s v) (State.setPc_responses s v) a w
@[simp] theorem peek_setP (s : State) (v : Status) (a : Word) : peek (s.setP v) a = peek s a := peek_congr (State.setP_mem s v) a
@[simp] theorem answer_setP (s : State) (v : Status) (a : Word) : answer a (s.setP v) = answer a s :=
  answer_congr (State.setP_mem s v) (State.setP_responses s v) a
@[simp] theorem memoryAfterRead_setP (s : State) (v : Status) : memoryAfterRead (s.setP v) = memoryAfterRead s :=
  memoryAfterRead_congr (State.setP_mem s v) (State.setP_responses s v)
@[simp] theorem memoryAfterWrite_setP (s : State) (v : Status) (a : Word) (w : Byte) :
    memoryAfterWrite a w (s.setP v) = memoryAfterWrite a w s := memoryAfterWrite_congr (State.setP_mem s v) (State.setP_responses s v) a w
@[simp] theorem peek_setInputs (s : State) (v : List Boundary) (a : Word) : peek (s.setInputs v) a = peek s a := peek_congr (State.setInputs_mem s v) a
@[simp] theorem answer_setInputs (s : State) (v : List Boundary) (a : Word) : answer a (s.setInputs v) = answer a s :=
  answer_congr (State.setInputs_mem s v) (State.setInputs_responses s v) a
@[simp] theorem memoryAfterRead_setInputs (s : State) (v : List Boundary) : memoryAfterRead (s.setInputs v) = memoryAfterRead s :=
  memoryAfterRead_congr (State.setInputs_mem s v) (State.setInputs_responses s v)
@[simp] theorem memoryAfterWrite_setInputs (s : State) (v : List Boundary) (a : Word) (w : Byte) :
    memoryAfterWrite a w (s.setInputs v) = memoryAfterWrite a w s := memoryAfterWrite_congr (State.setInputs_mem s v) (State.setInputs_responses s v) a w
@[simp] theorem peek_setBus (s : State) (v : List Access) (a : Word) : peek (s.setBus v) a = peek s a := peek_congr (State.setBus_mem s v) a
@[simp] theorem answer_setBus (s : State) (v : List Access) (a : Word) : answer a (s.setBus v) = answer a s :=
  answer_congr (State.setBus_mem s v) (State.setBus_responses s v) a
@[simp] theorem memoryAfterRead_setBus (s : State) (v : List Access) : memoryAfterRead (s.setBus v) = memoryAfterRead s :=
  memoryAfterRead_congr (State.setBus_mem s v) (State.setBus_responses s v)
@[simp] theorem memoryAfterWrite_setBus (s : State) (v : List Access) (a : Word) (w : Byte) :
    memoryAfterWrite a w (s.setBus v) = memoryAfterWrite a w s := memoryAfterWrite_congr (State.setBus_mem s v) (State.setBus_responses s v) a w
@[simp] theorem peek_setCycles (s : State) (v : Option Nat) (a : Word) : peek (s.setCycles v) a = peek s a := peek_congr (State.setCycles_mem s v) a
@[simp] theorem answer_setCycles (s : State) (v : Option Nat) (a : Word) : answer a (s.setCycles v) = answer a s :=
  answer_congr (State.setCycles_mem s v) (State.setCycles_responses s v) a
@[simp] theorem memoryAfterRead_setCycles (s : State) (v : Option Nat) : memoryAfterRead (s.setCycles v) = memoryAfterRead s :=
  memoryAfterRead_congr (State.setCycles_mem s v) (State.setCycles_responses s v)
@[simp] theorem memoryAfterWrite_setCycles (s : State) (v : Option Nat) (a : Word) (w : Byte) :
    memoryAfterWrite a w (s.setCycles v) = memoryAfterWrite a w s := memoryAfterWrite_congr (State.setCycles_mem s v) (State.setCycles_responses s v) a w
@[simp] theorem peek_withPort (s t : State) (a : Word) : peek (withPort s t) a = peek t a := rfl
@[simp] theorem answer_withPort (s t : State) (a : Word) : answer a (withPort s t) = answer a t := rfl
@[simp] theorem memoryAfterRead_withPort (s t : State) : memoryAfterRead (withPort s t) = memoryAfterRead t := rfl
@[simp] theorem memoryAfterWrite_withPort (s t : State) (a : Word) (w : Byte) :
    memoryAfterWrite a w (withPort s t) = memoryAfterWrite a w t := rfl

/-- Answering a read keeps memory canonical. -/
theorem wf_memoryAfterRead {s : State} (hm : Memory.wf s.mem = true) : Memory.wf (memoryAfterRead s) = true := by
  unfold memoryAfterRead
  split <;> first | exact hm | exact Memory.wf_applyHostWrites _ hm

/-- Taking a write keeps memory canonical. -/
theorem wf_memoryAfterWrite {s : State} (hm : Memory.wf s.mem = true) (a : Word) (v : Byte) :
    Memory.wf (memoryAfterWrite a v s) = true := by
  unfold memoryAfterWrite
  split <;> first | exact Memory.wf_write hm a v | exact Memory.wf_applyHostWrites _ hm

/-! Sequences of accesses. -/

/-- Reads one after the other are the first ones, then the others. -/
theorem portReads_append (l k : List Word) (s : State) :
    portReads (l ++ k) s =
      ((portReads l s).1 ++ (portReads k (portReads l s).2).1, (portReads k (portReads l s).2).2) := by
  induction l generalizing s with
  | nil => rfl
  | cons a l ih => simp [portReads, ih]

/-- Reads change the memory port and nothing else (R50). -/
theorem portReads_withPort (l : List Word) (s : State) : withPort s (portReads l s).2 = (portReads l s).2 := by
  induction l generalizing s with
  | nil => rfl
  | cons a l ih =>
    rw [portReads]
    exact (congrArg (withPort s) (ih (busRead a s).2)).symm.trans (ih (busRead a s).2)

/-- Writes change the memory port and nothing else (R50). -/
theorem portWrites_withPort (l : List (Word × Byte)) (s : State) : withPort s (portWrites l s) = portWrites l s := by
  induction l generalizing s with
  | nil => rfl
  | cons c l ih =>
    rw [portWrites]
    exact (congrArg (withPort s) (ih (busWrite c.1 c.2 s))).symm.trans (ih (busWrite c.1 c.2 s))

/-- Reads keep memory canonical. -/
theorem wf_portReads (l : List Word) {s : State} (hm : Memory.wf s.mem = true) :
    Memory.wf (portReads l s).2.mem = true := by
  induction l generalizing s with
  | nil => exact hm
  | cons a l ih => exact ih (s := (busRead a s).2) (wf_memoryAfterRead hm)

/-- Writes keep memory canonical. -/
theorem wf_portWrites (l : List (Word × Byte)) {s : State} (hm : Memory.wf s.mem = true) :
    Memory.wf (portWrites l s).mem = true := by
  induction l generalizing s with
  | nil => exact hm
  | cons c l ih => exact ih (s := busWrite c.1 c.2 s) (wf_memoryAfterWrite hm c.1 c.2)

/-- One read for each address. -/
theorem portReads_length (l : List Word) (s : State) : (portReads l s).1.length = l.length := by
  induction l generalizing s with
  | nil => rfl
  | cons a l ih => simp [portReads, ih]

/-! Fetches and 16-bit reads. -/

@[simp] theorem fetch8_value (s : State) : (fetch8 s).1 = answer s.pc s := rfl
theorem fetch8_state (s : State) : (fetch8 s).2 = (busRead s.pc s).2.setPc (s.pc + 1) := rfl
theorem fetch16_eq (s : State) : fetch16 s = (joinBytes (fetch8 (fetch8 s).2).1 (fetch8 s).1, (fetch8 (fetch8 s).2).2) := rfl

/-- A pair is read low byte first and changes the memory port alone (R53, R59). -/
theorem readPair_state (lo hi : Word) (s : State) : (readPair lo hi s).2 = (portReads [lo, hi] s).2 := rfl

/-- The value of a pair, from the two answers in order. -/
theorem readPair_value (lo hi : Word) (s : State) :
    (readPair lo hi s).1 = joinBytes (answer hi (busRead lo s).2) (answer lo s) := rfl

/-! Stack primitives. -/

@[simp] theorem push8_a (v : Byte) (s : State) : (push8 v s).a = s.a := rfl
@[simp] theorem push8_x (v : Byte) (s : State) : (push8 v s).x = s.x := rfl
@[simp] theorem push8_y (v : Byte) (s : State) : (push8 v s).y = s.y := rfl
@[simp] theorem push8_pc (v : Byte) (s : State) : (push8 v s).pc = s.pc := rfl
@[simp] theorem push8_p (v : Byte) (s : State) : (push8 v s).p = s.p := rfl
@[simp] theorem push8_inputs (v : Byte) (s : State) : (push8 v s).inputs = s.inputs := rfl
@[simp] theorem push8_cycleTable (v : Byte) (s : State) : (push8 v s).cycleTable = s.cycleTable := rfl
@[simp] theorem push8_cycles (v : Byte) (s : State) : (push8 v s).cycles = s.cycles := rfl
@[simp] theorem push8_sp (v : Byte) (s : State) : (push8 v s).sp = s.sp - 1#8 := rfl
@[simp] theorem push8_mem (v : Byte) (s : State) : (push8 v s).mem = memoryAfterWrite (stackAddress s.sp) v s := rfl
@[simp] theorem push8_responses (v : Byte) (s : State) : (push8 v s).responses = s.responses.tail := rfl
@[simp] theorem push8_bus (v : Byte) (s : State) : (push8 v s).bus = s.bus ++ [.write (stackAddress s.sp) v] := rfl
@[simp] theorem pull8_value (s : State) : (pull8 s).1 = answer (stackAddress (s.sp + 1#8)) s := rfl
@[simp] theorem pull8_a (s : State) : (pull8 s).2.a = s.a := rfl
@[simp] theorem pull8_x (s : State) : (pull8 s).2.x = s.x := rfl
@[simp] theorem pull8_y (s : State) : (pull8 s).2.y = s.y := rfl
@[simp] theorem pull8_pc (s : State) : (pull8 s).2.pc = s.pc := rfl
@[simp] theorem pull8_p (s : State) : (pull8 s).2.p = s.p := rfl
@[simp] theorem pull8_inputs (s : State) : (pull8 s).2.inputs = s.inputs := rfl
@[simp] theorem pull8_cycleTable (s : State) : (pull8 s).2.cycleTable = s.cycleTable := rfl
@[simp] theorem pull8_cycles (s : State) : (pull8 s).2.cycles = s.cycles := rfl
@[simp] theorem pull8_sp (s : State) : (pull8 s).2.sp = s.sp + 1#8 := rfl
@[simp] theorem pull8_mem (s : State) : (pull8 s).2.mem = memoryAfterRead s := rfl
@[simp] theorem pull8_responses (s : State) : (pull8 s).2.responses = s.responses.tail := rfl
@[simp] theorem pull8_bus (s : State) :
    (pull8 s).2.bus = s.bus ++ [.read (stackAddress (s.sp + 1#8)) (answer (stackAddress (s.sp + 1#8)) s)] := rfl

/-- The stack is page 1: the address as a number (R22). -/
theorem stackAddress_toNat (v : Byte) : (stackAddress v).toNat = 256 + v.toNat := by
  have hv := v.isLt
  have hor := Nat.shiftLeft_add_eq_or_of_lt (i := 8) hv 1
  simp only [stackAddress, BitVec.toNat_or, BitVec.toNat_setWidth, BitVec.toNat_ofNat]
  rw [Nat.mod_eq_of_lt (show v.toNat < 2 ^ 16 by omega)]
  exact hor.symm

/-- Different stack pointers denote different addresses. -/
theorem stackAddress_injective {u v : Byte} (h : stackAddress u = stackAddress v) : u = v := by
  apply BitVec.eq_of_toNat_eq
  have := congrArg BitVec.toNat h
  rw [stackAddress_toNat, stackAddress_toNat] at this
  omega

/-- A push keeps memory canonical. -/
theorem wf_push8 {s : State} (hm : Memory.wf s.mem = true) (v : Byte) : Memory.wf (push8 v s).mem = true :=
  wf_memoryAfterWrite hm _ v

/-- A pull keeps memory canonical. -/
theorem wf_pull8 {s : State} (hm : Memory.wf s.mem = true) : Memory.wf (pull8 s).2.mem = true := wf_memoryAfterRead hm

/-! Interrupt entry and return, RESET. -/

/-- Loading a vector changes PC and the memory port and nothing else (R247). -/
theorem loadVector_eq (vector : Word) (s : State) :
    loadVector vector s =
      (portReads [vector, vector + 1] s).2.setPc
        (joinBytes (answer (vector + 1) (busRead vector s).2) (answer vector s)) := rfl

/-- Loading a vector keeps memory canonical. -/
theorem wf_loadVector {s : State} (hm : Memory.wf s.mem = true) (vector : Word) :
    Memory.wf (loadVector vector s).mem = true := wf_portReads [vector, vector + 1] hm

/-- A frame is three writes, and S three lower (R220, R248). -/
theorem pushFrame_eq (brk : Bool) (ret : Word) (s : State) :
    pushFrame brk ret s =
      (portWrites
        [(stackAddress s.sp, highByte ret), (stackAddress (s.sp - 1#8), lowByte ret),
          (stackAddress (s.sp - 1#8 - 1#8), statusByte brk s.p)] s).setReg .sp (s.sp - 1#8 - 1#8 - 1#8) := rfl

@[simp] theorem pushFrame_a (brk : Bool) (ret : Word) (s : State) : (pushFrame brk ret s).a = s.a := by
  simp [pushFrame]
@[simp] theorem pushFrame_x (brk : Bool) (ret : Word) (s : State) : (pushFrame brk ret s).x = s.x := by
  simp [pushFrame]
@[simp] theorem pushFrame_y (brk : Bool) (ret : Word) (s : State) : (pushFrame brk ret s).y = s.y := by
  simp [pushFrame]
@[simp] theorem pushFrame_sp (brk : Bool) (ret : Word) (s : State) : (pushFrame brk ret s).sp = s.sp - 1#8 - 1#8 - 1#8 := by
  simp [pushFrame]
@[simp] theorem pushFrame_pc (brk : Bool) (ret : Word) (s : State) : (pushFrame brk ret s).pc = s.pc := by
  simp [pushFrame]
@[simp] theorem pushFrame_p (brk : Bool) (ret : Word) (s : State) : (pushFrame brk ret s).p = s.p := by
  simp [pushFrame]
@[simp] theorem pushFrame_inputs (brk : Bool) (ret : Word) (s : State) : (pushFrame brk ret s).inputs = s.inputs := by
  simp [pushFrame]
@[simp] theorem pushFrame_cycleTable (brk : Bool) (ret : Word) (s : State) : (pushFrame brk ret s).cycleTable = s.cycleTable := by
  simp [pushFrame]
@[simp] theorem pushFrame_cycles (brk : Bool) (ret : Word) (s : State) : (pushFrame brk ret s).cycles = s.cycles := by
  simp [pushFrame]

/-- The bytes of the frame in the order they are pushed (R220, R248, R256). -/
theorem pushFrame_bus (brk : Bool) (ret : Word) (s : State) :
    (pushFrame brk ret s).bus = s.bus ++ [.write (stackAddress s.sp) (highByte ret)] ++
      [.write (stackAddress (s.sp - 1#8)) (lowByte ret)] ++ [.write (stackAddress (s.sp - 1#8 - 1#8)) (statusByte brk s.p)] := by
  simp [pushFrame]

/-- A frame keeps memory canonical. -/
theorem wf_pushFrame {s : State} (hm : Memory.wf s.mem = true) (brk : Bool) (ret : Word) :
    Memory.wf (pushFrame brk ret s).mem = true := wf_push8 (wf_push8 (wf_push8 hm _) _) _

/-- An entry changes S, PC, P.I and the memory port (R248, R249). -/
theorem takeInterrupt_eq (brk : Bool) (ret vector : Word) (s : State) :
    takeInterrupt brk ret vector s = loadVector vector ((pushFrame brk ret s).setP { s.p with i := true }) := by
  simp [takeInterrupt]

/-- An entry keeps memory canonical. -/
theorem wf_takeInterrupt {s : State} (hm : Memory.wf s.mem = true) (brk : Bool) (ret vector : Word) :
    Memory.wf (takeInterrupt brk ret vector s).mem = true := by
  rw [takeInterrupt_eq]
  exact wf_loadVector (wf_pushFrame hm brk ret) vector

/-- A return is three reads; it changes S, P, PC and the memory port (R221). -/
theorem returnFromInterrupt_eq (s : State) :
    ∃ v lo hi t,
      portReads [stackAddress (s.sp + 1#8), stackAddress (s.sp + 2#8), stackAddress (s.sp + 3#8)] s = ([v, lo, hi], t) ∧
      returnFromInterrupt s = (((withPort s t).setReg .sp (s.sp + 3#8)).setP (statusOfByte v)).setPc (joinBytes hi lo) := by
  have h2 : s.sp + 1#8 + 1#8 = s.sp + 2#8 := by bv_omega
  have h3 : s.sp + 2#8 + 1#8 = s.sp + 3#8 := by bv_omega
  simp only [portReads, Prod.mk.injEq, List.cons.injEq, and_true]
  refine ⟨_, _, _, _, ⟨⟨rfl, rfl, rfl⟩, rfl⟩, ?_⟩
  simp only [returnFromInterrupt]
  generalize statusOfByte = ofByte
  apply State.ext_fields <;> simp [pull8, h2, h3]

/-- A return keeps memory canonical: it only reads (R221). -/
theorem wf_returnFromInterrupt {s : State} (hm : Memory.wf s.mem = true) :
    Memory.wf (returnFromInterrupt s).mem = true := by
  have h : Memory.wf ((pull8 s).2.setP (statusOfByte (pull8 s).1)).mem = true := wf_pull8 hm
  exact wf_pull8 (wf_pull8 h)

/-- RESET changes P.I, PC and the memory port and nothing else (R270). -/
theorem resetSequence_eq (s : State) :
    resetSequence s = loadVector Config.resetVector (s.setP { s.p with i := true }) := rfl

/-! Byte images of P. -/

/-- Pulling an image restores the six flags it holds; the stored B becomes the image's bit 4 (R28, R29). -/
@[simp] theorem statusOfByte_statusByte (brk : Bool) (p : Status) : statusOfByte (statusByte brk p) = { p with b := brk } := by
  rcases p with ⟨n, v, b, d, i, z, c⟩
  revert brk n v b d i z c
  decide

/-- Bit 5 of every image is 1 and bit 4 is the push's own (R27, R32). -/
theorem statusByte_bits (brk : Bool) (p : Status) :
    (statusByte brk p).getLsbD 5 = true ∧ (statusByte brk p).getLsbD 4 = brk := by
  rcases p with ⟨n, v, b, d, i, z, c⟩
  revert brk n v b d i z c
  decide

/-- An image does not depend on the stored B (R32). -/
theorem statusByte_ignores_b (brk b : Bool) (p : Status) : statusByte brk { p with b := b } = statusByte brk p := rfl

end Sys2Proof.Machine
end

