-- ==== Sys2Proof/Laws/Operands.lean ====
section
/-! SUPPORT. What the resolvers and the operand accesses do: they change nothing but the access record, and a read-modify-write
changes its place and the flags. -/

namespace Sys2Proof.Machine

/-- Zero extension keeps the value (R10). -/
theorem zeroExtend16_toNat (v : Byte) : (zeroExtend16 v).toNat = v.toNat := by
  have := v.isLt
  simp [zeroExtend16, BitVec.toNat_setWidth]
  omega

/-- Two addresses are in different pages when their page numbers differ (R286). -/
theorem crossesPage_eq (a b : Word) : crossesPage a b = decide (a.toNat / 256 ≠ b.toNat / 256) := by
  rw [← highByte_toNat, ← highByte_toNat]
  by_cases h : highByte a = highByte b
  · simp [crossesPage, h]
  · simp [crossesPage, h, BitVec.toNat_inj]

/-- The addresses of the pointer reads of a resolver, low byte first; the direct formats make none (R61, R111 to R113). -/
def pointerAddresses (m : MemOperand) (s : State) : List Word :=
  match m with
  | .zp _ | .zpx _ | .zpy _ | .abs _ | .abx _ | .aby _ | .rel _ => []
  | .ind ptr => [ptr, nextInPage ptr]
  | .izx zp8 => [zeroExtend16 (zp8 + s.x), zeroExtend16 (zp8 + s.x + 1#8)]
  | .izy zp8 => [zeroExtend16 zp8, zeroExtend16 (zp8 + 1#8)]

/-- A resolver makes its pointer reads and changes nothing else (R100). -/
theorem resolve_state (m : MemOperand) (s : State) : (resolve m s).state = (portReads (pointerAddresses m s) s).2 := by
  cases m <;> rfl

/-- A resolver changes the memory port and nothing else (R100). -/
theorem resolve_withPort (m : MemOperand) (s : State) : withPort s (resolve m s).state = (resolve m s).state := by
  rw [resolve_state, portReads_withPort]

@[simp] theorem resolve_a (m : MemOperand) (s : State) : (resolve m s).state.a = s.a := by
  rw [← resolve_withPort]; rfl
@[simp] theorem resolve_x (m : MemOperand) (s : State) : (resolve m s).state.x = s.x := by
  rw [← resolve_withPort]; rfl
@[simp] theorem resolve_y (m : MemOperand) (s : State) : (resolve m s).state.y = s.y := by
  rw [← resolve_withPort]; rfl
@[simp] theorem resolve_sp (m : MemOperand) (s : State) : (resolve m s).state.sp = s.sp := by
  rw [← resolve_withPort]; rfl
@[simp] theorem resolve_pc (m : MemOperand) (s : State) : (resolve m s).state.pc = s.pc := by
  rw [← resolve_withPort]; rfl
@[simp] theorem resolve_p (m : MemOperand) (s : State) : (resolve m s).state.p = s.p := by
  rw [← resolve_withPort]; rfl
@[simp] theorem resolve_inputs (m : MemOperand) (s : State) : (resolve m s).state.inputs = s.inputs := by
  rw [← resolve_withPort]; rfl
@[simp] theorem resolve_cycleTable (m : MemOperand) (s : State) : (resolve m s).state.cycleTable = s.cycleTable := by
  rw [← resolve_withPort]; rfl
@[simp] theorem resolve_cycles (m : MemOperand) (s : State) : (resolve m s).state.cycles = s.cycles := by
  rw [← resolve_withPort]; rfl
@[simp] theorem reg_resolve (m : MemOperand) (s : State) (r : Reg) : (resolve m s).state.reg r = s.reg r := by
  rw [← resolve_withPort]; simp

/-- A resolver keeps memory canonical. -/
theorem wf_resolve {s : State} (hm : Memory.wf s.mem = true) (m : MemOperand) :
    Memory.wf (resolve m s).state.mem = true := by
  rw [resolve_state]
  exact wf_portReads _ hm

/-- The addresses read for an operand after the instruction's own bytes, in order (R61). -/
def sourceAddresses (src : Source) (s : State) : List Word :=
  match src with
  | .imm _ => []
  | .mem m => pointerAddresses m s ++ [(resolve m s).ea]

/-- Reading an operand makes those reads and changes nothing else (R101). -/
theorem readSource_state (src : Source) (s : State) :
    (readSource src s).2 = (portReads (sourceAddresses src s) s).2 := by
  cases src with
  | imm v => rfl
  | mem m => rw [sourceAddresses, portReads_append, ← resolve_state]; rfl

/-- Reading an operand changes the memory port and nothing else (R101). -/
theorem readSource_withPort (src : Source) (s : State) : withPort s (readSource src s).2 = (readSource src s).2 := by
  rw [readSource_state, portReads_withPort]

@[simp] theorem readSource_value_imm (v : Byte) (s : State) : (readSource (.imm v) s).1 = v := rfl
@[simp] theorem readSource_state_imm (v : Byte) (s : State) : (readSource (.imm v) s).2 = s := rfl

/-- A memory operand is one read at its effective address, after the pointer reads (R101). -/
theorem readSource_mem_eq (m : MemOperand) (s : State) :
    readSource (.mem m) s = busRead (resolve m s).ea (resolve m s).state := rfl

@[simp] theorem readSource_a (src : Source) (s : State) : (readSource src s).2.a = s.a := by
  rw [← readSource_withPort]; rfl
@[simp] theorem readSource_x (src : Source) (s : State) : (readSource src s).2.x = s.x := by
  rw [← readSource_withPort]; rfl
@[simp] theorem readSource_y (src : Source) (s : State) : (readSource src s).2.y = s.y := by
  rw [← readSource_withPort]; rfl
@[simp] theorem readSource_sp (src : Source) (s : State) : (readSource src s).2.sp = s.sp := by
  rw [← readSource_withPort]; rfl
@[simp] theorem readSource_pc (src : Source) (s : State) : (readSource src s).2.pc = s.pc := by
  rw [← readSource_withPort]; rfl
@[simp] theorem readSource_p (src : Source) (s : State) : (readSource src s).2.p = s.p := by
  rw [← readSource_withPort]; rfl
@[simp] theorem readSource_inputs (src : Source) (s : State) : (readSource src s).2.inputs = s.inputs := by
  rw [← readSource_withPort]; rfl
@[simp] theorem readSource_cycleTable (src : Source) (s : State) : (readSource src s).2.cycleTable = s.cycleTable := by
  rw [← readSource_withPort]; rfl
@[simp] theorem readSource_cycles (src : Source) (s : State) : (readSource src s).2.cycles = s.cycles := by
  rw [← readSource_withPort]; rfl
@[simp] theorem reg_readSource (src : Source) (s : State) (r : Reg) : (readSource src s).2.reg r = s.reg r := by
  rw [← readSource_withPort]; simp

/-- Reading an operand keeps memory canonical. -/
theorem wf_readSource {s : State} (hm : Memory.wf s.mem = true) (src : Source) :
    Memory.wf (readSource src s).2.mem = true := by
  rw [readSource_state]
  exact wf_portReads _ hm

/-- On the accumulator a read-modify-write changes A and the flags (R103, R170). -/
theorem readModifyWrite_acc (f : Modifier) (s : State) :
    readModifyWrite f .acc s = (s.setReg .a (f s.a s.p).1).setP (f s.a s.p).2 := rfl

/-- In memory it is the operand's reads, then one write of the same address, and it changes the flags and the memory port alone
(R61). -/
theorem readModifyWrite_mem (f : Modifier) (m : MemOperand) (s : State) :
    readModifyWrite f (.mem m) s =
      (withPort s
        (busWrite (resolve m s).ea (f (readSource (.mem m) s).1 s.p).1 (readSource (.mem m) s).2)).setP
        (f (readSource (.mem m) s).1 s.p).2 := by
  apply State.ext_fields <;> simp [readModifyWrite, readSource_mem_eq]

end Sys2Proof.Machine
end

