-- ==== Sys2Proof/Laws/Meanings.lean ====
section
/-! SUPPORT. One lemma for each shared operation that the meanings are written over: everything it changes, as updates of the
state it starts from. -/

namespace Sys2Proof.Machine

/-- A load changes its register, N, Z and the memory port (R130). -/
theorem loadInto_eq (r : Reg) (src : Source) (s : State) :
    loadInto r src s =
      ((withPort s (readSource src s).2).setReg r (readSource src s).1).setP (setNZ (readSource src s).1 s.p) := by
  simp [loadInto, readSource_withPort]

/-- A store changes the memory port alone (R130). -/
theorem storeFrom_eq (r : Reg) (m : MemOperand) (s : State) :
    storeFrom r m s = withPort s (busWrite (resolve m s).ea (s.reg r) (resolve m s).state) := by
  apply State.ext_fields <;> simp [storeFrom]

/-- A logical operation changes A, N, Z and the memory port (R150 to R152). -/
theorem logical_eq (f : Byte → Byte → Byte) (src : Source) (s : State) :
    logical f src s =
      ((withPort s (readSource src s).2).setReg .a (f s.a (readSource src s).1)).setP
        (setNZ (f s.a (readSource src s).1) s.p) := by
  simp [logical, readSource_withPort]

/-- BIT changes N, V, Z and the memory port (R153). -/
theorem bitTest_eq (m : MemOperand) (s : State) :
    bitTest m s = (withPort s (readSource (.mem m) s).2).setP (bitFlags s.a (readSource (.mem m) s).1 s.p) := by
  simp [bitTest, readSource_withPort]

/-- ADC changes A, N, V, Z, C and the memory port (R161). -/
theorem addWithCarry_eq (src : Source) (s : State) :
    addWithCarry src s =
      accumulate (if s.p.d then addDec s.a (readSource src s).1 s.p.c else addBin s.a (readSource src s).1 s.p.c)
        (withPort s (readSource src s).2) := by
  simp [addWithCarry, readSource_withPort]

/-- SBC changes A, N, V, Z, C and the memory port (R162). -/
theorem subtractWithBorrow_eq (src : Source) (s : State) :
    subtractWithBorrow src s =
      accumulate
        (if s.p.d then subDec s.a (readSource src s).1 s.p.c else addBin s.a ((readSource src s).1 ^^^ 0xFF#8) s.p.c)
        (withPort s (readSource src s).2) := by
  simp [subtractWithBorrow, readSource_withPort]

/-- A compare changes N, Z, C and the memory port (R180). -/
theorem compareRegister_eq (r : Reg) (src : Source) (s : State) :
    compareRegister r src s =
      (withPort s (readSource src s).2).setP (compareFlags (s.reg r) (readSource src s).1 s.p) := by
  simp [compareRegister, readSource_withPort]

/-- A branch changes PC, and only when its condition holds (R190). -/
theorem branchIf_eq (c : Condition) (rel8 : Byte) (s : State) :
    branchIf c rel8 s = s.setPc (if c.holds s.p then s.pc + signExtend16 rel8 else s.pc) := by
  unfold branchIf
  by_cases h : c.holds s.p <;> simp [resolve, h, State.setPc]

/-- JMP changes PC and the memory port (R200). -/
theorem jumpTo_eq (m : MemOperand) (s : State) :
    jumpTo m s = (withPort s (resolve m s).state).setPc (resolve m s).ea := by
  simp [jumpTo, resolve_withPort]

/-- JSR changes S, PC and the memory port: two pushes (R201). -/
theorem jumpToSubroutine_eq (addr : Word) (s : State) :
    jumpToSubroutine addr s = (push8 (lowByte (s.pc - 1)) (push8 (highByte (s.pc - 1)) s)).setPc addr := rfl

/-- RTS changes S, PC and the memory port: two pulls (R202). -/
theorem returnFromSubroutine_eq (s : State) :
    returnFromSubroutine s =
      (pull8 (pull8 s).2).2.setPc (joinBytes (pull8 (pull8 s).2).1 (pull8 s).1 + 1) := rfl

/-! The shape of every meaning. -/

/-- The shared operation each instruction's meaning is, with its parameters: the case list that statements about all
instructions go through. -/
inductive Meaning (i : Instr) : (State → State) → Prop where
  | load (r : Reg) (src : Source) (op : (i.operation, r) ∈ [(.lda, .a), (.ldx, .x), (.ldy, .y)])
      (operand : i.operand = src.operand) : Meaning i (loadInto r src)
  | store (r : Reg) (m : MemOperand) (op : (i.operation, r) ∈ [(.sta, .a), (.stx, .x), (.sty, .y)])
      (operand : i.operand = .mem m) : Meaning i (storeFrom r m)
  | transfer (src dst : Reg) (operand : i.operand = .imp)
      (op : (i.operation, src, dst) ∈ [(.tax, .a, .x), (.tay, .a, .y), (.txa, .x, .a), (.tya, .y, .a), (.tsx, .sp, .x)]) :
      Meaning i (transfer src dst)
  | transferXToS (op : i.operation = .txs) (operand : i.operand = .imp) : Meaning i transferXToS
  | logical (f : Byte → Byte → Byte) (src : Source) (operand : i.operand = src.operand)
      (op : i.operation = .and ∧ (f = fun a m => a &&& m) ∨ i.operation = .ora ∧ (f = fun a m => a ||| m) ∨
        i.operation = .eor ∧ (f = fun a m => a ^^^ m)) : Meaning i (logical f src)
  | bitTest (m : MemOperand) (op : i.operation = .bit) (operand : i.operand = .mem m) : Meaning i (bitTest m)
  | stepMemory (f : Modifier) (m : MemOperand) (operand : i.operand = .mem m)
      (op : i.operation = .inc ∧ f = increment ∨ i.operation = .dec ∧ f = decrement) : Meaning i (readModifyWrite f (.mem m))
  | stepRegister (f : Modifier) (r : Reg) (operand : i.operand = .imp)
      (op : f = increment ∧ (i.operation, r) ∈ [(.inx, .x), (.iny, .y)] ∨
        f = decrement ∧ (i.operation, r) ∈ [(.dex, .x), (.dey, .y)]) : Meaning i (stepRegister f r)
  | add (src : Source) (op : i.operation = .adc) (operand : i.operand = src.operand) : Meaning i (addWithCarry src)
  | subtract (src : Source) (op : i.operation = .sbc) (operand : i.operand = src.operand) :
      Meaning i (subtractWithBorrow src)
  | shift (f : Modifier) (pl : Place) (operand : i.operand = pl.operand)
      (op : i.operation = .asl ∧ f = shiftLeft ∨ i.operation = .lsr ∧ f = shiftRight ∨
        i.operation = .rol ∧ f = rotateLeft ∨ i.operation = .ror ∧ f = rotateRight) : Meaning i (readModifyWrite f pl)
  | compare (r : Reg) (src : Source) (op : (i.operation, r) ∈ [(.cmp, .a), (.cpx, .x), (.cpy, .y)])
      (operand : i.operand = src.operand) : Meaning i (compareRegister r src)
  | branch (c : Condition) (rel8 : Byte) (op : conditionOf i.operation = some c) (operand : i.operand = .mem (.rel rel8)) :
      Meaning i (branchIf c rel8)
  | jump (m : MemOperand) (op : i.operation = .jmp) (operand : i.operand = .mem m) : Meaning i (jumpTo m)
  | jumpToSubroutine (addr : Word) (op : i.operation = .jsr) (operand : i.operand = .mem (.abs addr)) :
      Meaning i (jumpToSubroutine addr)
  | returnFromSubroutine (op : i.operation = .rts) (operand : i.operand = .imp) : Meaning i returnFromSubroutine
  | pushAccumulator (op : i.operation = .pha) (operand : i.operand = .imp) : Meaning i pushAccumulator
  | pushStatus (op : i.operation = .php) (operand : i.operand = .imp) : Meaning i pushStatus
  | pullAccumulator (op : i.operation = .pla) (operand : i.operand = .imp) : Meaning i pullAccumulator
  | pullStatus (op : i.operation = .plp) (operand : i.operand = .imp) : Meaning i pullStatus
  | softwareInterrupt (op : i.operation = .brk) (operand : i.operand = .imp) : Meaning i softwareInterrupt
  | returnFromInterrupt (op : i.operation = .rti) (operand : i.operand = .imp) : Meaning i returnFromInterrupt
  | setFlag (f : Status → Status) (operand : i.operand = .imp)
      (op : i.operation = .clc ∧ (f = fun p => { p with c := false }) ∨ i.operation = .cld ∧ (f = fun p => { p with d := false }) ∨
        i.operation = .cli ∧ (f = fun p => { p with i := false }) ∨ i.operation = .clv ∧ (f = fun p => { p with v := false }) ∨
        i.operation = .sec ∧ (f = fun p => { p with c := true }) ∨ i.operation = .sed ∧ (f = fun p => { p with d := true }) ∨
        i.operation = .sei ∧ (f = fun p => { p with i := true })) : Meaning i (fun s => s.setP (f s.p))
  | nothing (op : i.operation = .nop) (operand : i.operand = .imp) : Meaning i (fun s => s)

/-- Every instruction completes, at every state, and what it does is the shared operation of its family (R50, R240). -/
theorem exec_meaning (i : Instr) : ∃ f, Meaning i f ∧ ∀ s, exec i s = .next (f s) := by
  cases i with
  | ldaImm v => exact ⟨_, .load .a (.imm v) (by simp [Instr.operation]) rfl, fun _ => rfl⟩
  | ldaZp v => exact ⟨_, .load .a (.mem (.zp v)) (by simp [Instr.operation]) rfl, fun _ => rfl⟩
  | ldaZpx v => exact ⟨_, .load .a (.mem (.zpx v)) (by simp [Instr.operation]) rfl, fun _ => rfl⟩
  | ldaAbs v => exact ⟨_, .load .a (.mem (.abs v)) (by simp [Instr.operation]) rfl, fun _ => rfl⟩
  | ldaAbx v => exact ⟨_, .load .a (.mem (.abx v)) (by simp [Instr.operation]) rfl, fun _ => rfl⟩
  | ldaAby v => exact ⟨_, .load .a (.mem (.aby v)) (by simp [Instr.operation]) rfl, fun _ => rfl⟩
  | ldaIzx v => exact ⟨_, .load .a (.mem (.izx v)) (by simp [Instr.operation]) rfl, fun _ => rfl⟩
  | ldaIzy v => exact ⟨_, .load .a (.mem (.izy v)) (by simp [Instr.operation]) rfl, fun _ => rfl⟩
  | ldxImm v => exact ⟨_, .load .x (.imm v) (by simp [Instr.operation]) rfl, fun _ => rfl⟩
  | ldxZp v => exact ⟨_, .load .x (.mem (.zp v)) (by simp [Instr.operation]) rfl, fun _ => rfl⟩
  | ldxZpy v => exact ⟨_, .load .x (.mem (.zpy v)) (by simp [Instr.operation]) rfl, fun _ => rfl⟩
  | ldxAbs v => exact ⟨_, .load .x (.mem (.abs v)) (by simp [Instr.operation]) rfl, fun _ => rfl⟩
  | ldxAby v => exact ⟨_, .load .x (.mem (.aby v)) (by simp [Instr.operation]) rfl, fun _ => rfl⟩
  | ldyImm v => exact ⟨_, .load .y (.imm v) (by simp [Instr.operation]) rfl, fun _ => rfl⟩
  | ldyZp v => exact ⟨_, .load .y (.mem (.zp v)) (by simp [Instr.operation]) rfl, fun _ => rfl⟩
  | ldyZpx v => exact ⟨_, .load .y (.mem (.zpx v)) (by simp [Instr.operation]) rfl, fun _ => rfl⟩
  | ldyAbs v => exact ⟨_, .load .y (.mem (.abs v)) (by simp [Instr.operation]) rfl, fun _ => rfl⟩
  | ldyAbx v => exact ⟨_, .load .y (.mem (.abx v)) (by simp [Instr.operation]) rfl, fun _ => rfl⟩
  | staZp v => exact ⟨_, .store .a (.zp v) (by simp [Instr.operation]) rfl, fun _ => rfl⟩
  | staZpx v => exact ⟨_, .store .a (.zpx v) (by simp [Instr.operation]) rfl, fun _ => rfl⟩
  | staAbs v => exact ⟨_, .store .a (.abs v) (by simp [Instr.operation]) rfl, fun _ => rfl⟩
  | staAbx v => exact ⟨_, .store .a (.abx v) (by simp [Instr.operation]) rfl, fun _ => rfl⟩
  | staAby v => exact ⟨_, .store .a (.aby v) (by simp [Instr.operation]) rfl, fun _ => rfl⟩
  | staIzx v => exact ⟨_, .store .a (.izx v) (by simp [Instr.operation]) rfl, fun _ => rfl⟩
  | staIzy v => exact ⟨_, .store .a (.izy v) (by simp [Instr.operation]) rfl, fun _ => rfl⟩
  | stxZp v => exact ⟨_, .store .x (.zp v) (by simp [Instr.operation]) rfl, fun _ => rfl⟩
  | stxZpy v => exact ⟨_, .store .x (.zpy v) (by simp [Instr.operation]) rfl, fun _ => rfl⟩
  | stxAbs v => exact ⟨_, .store .x (.abs v) (by simp [Instr.operation]) rfl, fun _ => rfl⟩
  | styZp v => exact ⟨_, .store .y (.zp v) (by simp [Instr.operation]) rfl, fun _ => rfl⟩
  | styZpx v => exact ⟨_, .store .y (.zpx v) (by simp [Instr.operation]) rfl, fun _ => rfl⟩
  | styAbs v => exact ⟨_, .store .y (.abs v) (by simp [Instr.operation]) rfl, fun _ => rfl⟩
  | tax => exact ⟨_, .transfer .a .x rfl (by simp [Instr.operation]), fun _ => rfl⟩
  | tay => exact ⟨_, .transfer .a .y rfl (by simp [Instr.operation]), fun _ => rfl⟩
  | txa => exact ⟨_, .transfer .x .a rfl (by simp [Instr.operation]), fun _ => rfl⟩
  | tya => exact ⟨_, .transfer .y .a rfl (by simp [Instr.operation]), fun _ => rfl⟩
  | tsx => exact ⟨_, .transfer .sp .x rfl (by simp [Instr.operation]), fun _ => rfl⟩
  | txs => exact ⟨_, .transferXToS rfl rfl, fun _ => rfl⟩
  | andImm v => exact ⟨_, .logical _ (.imm v) rfl (.inl ⟨rfl, rfl⟩), fun _ => rfl⟩
  | andZp v => exact ⟨_, .logical _ (.mem (.zp v)) rfl (.inl ⟨rfl, rfl⟩), fun _ => rfl⟩
  | andZpx v => exact ⟨_, .logical _ (.mem (.zpx v)) rfl (.inl ⟨rfl, rfl⟩), fun _ => rfl⟩
  | andAbs v => exact ⟨_, .logical _ (.mem (.abs v)) rfl (.inl ⟨rfl, rfl⟩), fun _ => rfl⟩
  | andAbx v => exact ⟨_, .logical _ (.mem (.abx v)) rfl (.inl ⟨rfl, rfl⟩), fun _ => rfl⟩
  | andAby v => exact ⟨_, .logical _ (.mem (.aby v)) rfl (.inl ⟨rfl, rfl⟩), fun _ => rfl⟩
  | andIzx v => exact ⟨_, .logical _ (.mem (.izx v)) rfl (.inl ⟨rfl, rfl⟩), fun _ => rfl⟩
  | andIzy v => exact ⟨_, .logical _ (.mem (.izy v)) rfl (.inl ⟨rfl, rfl⟩), fun _ => rfl⟩
  | oraImm v => exact ⟨_, .logical _ (.imm v) rfl (.inr (.inl ⟨rfl, rfl⟩)), fun _ => rfl⟩
  | oraZp v => exact ⟨_, .logical _ (.mem (.zp v)) rfl (.inr (.inl ⟨rfl, rfl⟩)), fun _ => rfl⟩
  | oraZpx v => exact ⟨_, .logical _ (.mem (.zpx v)) rfl (.inr (.inl ⟨rfl, rfl⟩)), fun _ => rfl⟩
  | oraAbs v => exact ⟨_, .logical _ (.mem (.abs v)) rfl (.inr (.inl ⟨rfl, rfl⟩)), fun _ => rfl⟩
  | oraAbx v => exact ⟨_, .logical _ (.mem (.abx v)) rfl (.inr (.inl ⟨rfl, rfl⟩)), fun _ => rfl⟩
  | oraAby v => exact ⟨_, .logical _ (.mem (.aby v)) rfl (.inr (.inl ⟨rfl, rfl⟩)), fun _ => rfl⟩
  | oraIzx v => exact ⟨_, .logical _ (.mem (.izx v)) rfl (.inr (.inl ⟨rfl, rfl⟩)), fun _ => rfl⟩
  | oraIzy v => exact ⟨_, .logical _ (.mem (.izy v)) rfl (.inr (.inl ⟨rfl, rfl⟩)), fun _ => rfl⟩
  | eorImm v => exact ⟨_, .logical _ (.imm v) rfl (.inr (.inr ⟨rfl, rfl⟩)), fun _ => rfl⟩
  | eorZp v => exact ⟨_, .logical _ (.mem (.zp v)) rfl (.inr (.inr ⟨rfl, rfl⟩)), fun _ => rfl⟩
  | eorZpx v => exact ⟨_, .logical _ (.mem (.zpx v)) rfl (.inr (.inr ⟨rfl, rfl⟩)), fun _ => rfl⟩
  | eorAbs v => exact ⟨_, .logical _ (.mem (.abs v)) rfl (.inr (.inr ⟨rfl, rfl⟩)), fun _ => rfl⟩
  | eorAbx v => exact ⟨_, .logical _ (.mem (.abx v)) rfl (.inr (.inr ⟨rfl, rfl⟩)), fun _ => rfl⟩
  | eorAby v => exact ⟨_, .logical _ (.mem (.aby v)) rfl (.inr (.inr ⟨rfl, rfl⟩)), fun _ => rfl⟩
  | eorIzx v => exact ⟨_, .logical _ (.mem (.izx v)) rfl (.inr (.inr ⟨rfl, rfl⟩)), fun _ => rfl⟩
  | eorIzy v => exact ⟨_, .logical _ (.mem (.izy v)) rfl (.inr (.inr ⟨rfl, rfl⟩)), fun _ => rfl⟩
  | bitZp v => exact ⟨_, .bitTest (.zp v) rfl rfl, fun _ => rfl⟩
  | bitAbs v => exact ⟨_, .bitTest (.abs v) rfl rfl, fun _ => rfl⟩
  | incZp v => exact ⟨_, .stepMemory _ (.zp v) rfl (.inl ⟨rfl, rfl⟩), fun _ => rfl⟩
  | incZpx v => exact ⟨_, .stepMemory _ (.zpx v) rfl (.inl ⟨rfl, rfl⟩), fun _ => rfl⟩
  | incAbs v => exact ⟨_, .stepMemory _ (.abs v) rfl (.inl ⟨rfl, rfl⟩), fun _ => rfl⟩
  | incAbx v => exact ⟨_, .stepMemory _ (.abx v) rfl (.inl ⟨rfl, rfl⟩), fun _ => rfl⟩
  | decZp v => exact ⟨_, .stepMemory _ (.zp v) rfl (.inr ⟨rfl, rfl⟩), fun _ => rfl⟩
  | decZpx v => exact ⟨_, .stepMemory _ (.zpx v) rfl (.inr ⟨rfl, rfl⟩), fun _ => rfl⟩
  | decAbs v => exact ⟨_, .stepMemory _ (.abs v) rfl (.inr ⟨rfl, rfl⟩), fun _ => rfl⟩
  | decAbx v => exact ⟨_, .stepMemory _ (.abx v) rfl (.inr ⟨rfl, rfl⟩), fun _ => rfl⟩
  | inx => exact ⟨_, .stepRegister _ .x rfl (.inl ⟨rfl, by simp [Instr.operation]⟩), fun _ => rfl⟩
  | iny => exact ⟨_, .stepRegister _ .y rfl (.inl ⟨rfl, by simp [Instr.operation]⟩), fun _ => rfl⟩
  | dex => exact ⟨_, .stepRegister _ .x rfl (.inr ⟨rfl, by simp [Instr.operation]⟩), fun _ => rfl⟩
  | dey => exact ⟨_, .stepRegister _ .y rfl (.inr ⟨rfl, by simp [Instr.operation]⟩), fun _ => rfl⟩
  | adcImm v => exact ⟨_, .add (.imm v) rfl rfl, fun _ => rfl⟩
  | adcZp v => exact ⟨_, .add (.mem (.zp v)) rfl rfl, fun _ => rfl⟩
  | adcZpx v => exact ⟨_, .add (.mem (.zpx v)) rfl rfl, fun _ => rfl⟩
  | adcAbs v => exact ⟨_, .add (.mem (.abs v)) rfl rfl, fun _ => rfl⟩
  | adcAbx v => exact ⟨_, .add (.mem (.abx v)) rfl rfl, fun _ => rfl⟩
  | adcAby v => exact ⟨_, .add (.mem (.aby v)) rfl rfl, fun _ => rfl⟩
  | adcIzx v => exact ⟨_, .add (.mem (.izx v)) rfl rfl, fun _ => rfl⟩
  | adcIzy v => exact ⟨_, .add (.mem (.izy v)) rfl rfl, fun _ => rfl⟩
  | sbcImm v => exact ⟨_, .subtract (.imm v) rfl rfl, fun _ => rfl⟩
  | sbcZp v => exact ⟨_, .subtract (.mem (.zp v)) rfl rfl, fun _ => rfl⟩
  | sbcZpx v => exact ⟨_, .subtract (.mem (.zpx v)) rfl rfl, fun _ => rfl⟩
  | sbcAbs v => exact ⟨_, .subtract (.mem (.abs v)) rfl rfl, fun _ => rfl⟩
  | sbcAbx v => exact ⟨_, .subtract (.mem (.abx v)) rfl rfl, fun _ => rfl⟩
  | sbcAby v => exact ⟨_, .subtract (.mem (.aby v)) rfl rfl, fun _ => rfl⟩
  | sbcIzx v => exact ⟨_, .subtract (.mem (.izx v)) rfl rfl, fun _ => rfl⟩
  | sbcIzy v => exact ⟨_, .subtract (.mem (.izy v)) rfl rfl, fun _ => rfl⟩
  | aslAcc => exact ⟨_, .shift _ .acc rfl (.inl ⟨rfl, rfl⟩), fun _ => rfl⟩
  | aslZp v => exact ⟨_, .shift _ (.mem (.zp v)) rfl (.inl ⟨rfl, rfl⟩), fun _ => rfl⟩
  | aslZpx v => exact ⟨_, .shift _ (.mem (.zpx v)) rfl (.inl ⟨rfl, rfl⟩), fun _ => rfl⟩
  | aslAbs v => exact ⟨_, .shift _ (.mem (.abs v)) rfl (.inl ⟨rfl, rfl⟩), fun _ => rfl⟩
  | aslAbx v => exact ⟨_, .shift _ (.mem (.abx v)) rfl (.inl ⟨rfl, rfl⟩), fun _ => rfl⟩
  | lsrAcc => exact ⟨_, .shift _ .acc rfl (.inr (.inl ⟨rfl, rfl⟩)), fun _ => rfl⟩
  | lsrZp v => exact ⟨_, .shift _ (.mem (.zp v)) rfl (.inr (.inl ⟨rfl, rfl⟩)), fun _ => rfl⟩
  | lsrZpx v => exact ⟨_, .shift _ (.mem (.zpx v)) rfl (.inr (.inl ⟨rfl, rfl⟩)), fun _ => rfl⟩
  | lsrAbs v => exact ⟨_, .shift _ (.mem (.abs v)) rfl (.inr (.inl ⟨rfl, rfl⟩)), fun _ => rfl⟩
  | lsrAbx v => exact ⟨_, .shift _ (.mem (.abx v)) rfl (.inr (.inl ⟨rfl, rfl⟩)), fun _ => rfl⟩
  | rolAcc => exact ⟨_, .shift _ .acc rfl (.inr (.inr (.inl ⟨rfl, rfl⟩))), fun _ => rfl⟩
  | rolZp v => exact ⟨_, .shift _ (.mem (.zp v)) rfl (.inr (.inr (.inl ⟨rfl, rfl⟩))), fun _ => rfl⟩
  | rolZpx v => exact ⟨_, .shift _ (.mem (.zpx v)) rfl (.inr (.inr (.inl ⟨rfl, rfl⟩))), fun _ => rfl⟩
  | rolAbs v => exact ⟨_, .shift _ (.mem (.abs v)) rfl (.inr (.inr (.inl ⟨rfl, rfl⟩))), fun _ => rfl⟩
  | rolAbx v => exact ⟨_, .shift _ (.mem (.abx v)) rfl (.inr (.inr (.inl ⟨rfl, rfl⟩))), fun _ => rfl⟩
  | rorAcc => exact ⟨_, .shift _ .acc rfl (.inr (.inr (.inr ⟨rfl, rfl⟩))), fun _ => rfl⟩
  | rorZp v => exact ⟨_, .shift _ (.mem (.zp v)) rfl (.inr (.inr (.inr ⟨rfl, rfl⟩))), fun _ => rfl⟩
  | rorZpx v => exact ⟨_, .shift _ (.mem (.zpx v)) rfl (.inr (.inr (.inr ⟨rfl, rfl⟩))), fun _ => rfl⟩
  | rorAbs v => exact ⟨_, .shift _ (.mem (.abs v)) rfl (.inr (.inr (.inr ⟨rfl, rfl⟩))), fun _ => rfl⟩
  | rorAbx v => exact ⟨_, .shift _ (.mem (.abx v)) rfl (.inr (.inr (.inr ⟨rfl, rfl⟩))), fun _ => rfl⟩
  | cmpImm v => exact ⟨_, .compare .a (.imm v) (by simp [Instr.operation]) rfl, fun _ => rfl⟩
  | cmpZp v => exact ⟨_, .compare .a (.mem (.zp v)) (by simp [Instr.operation]) rfl, fun _ => rfl⟩
  | cmpZpx v => exact ⟨_, .compare .a (.mem (.zpx v)) (by simp [Instr.operation]) rfl, fun _ => rfl⟩
  | cmpAbs v => exact ⟨_, .compare .a (.mem (.abs v)) (by simp [Instr.operation]) rfl, fun _ => rfl⟩
  | cmpAbx v => exact ⟨_, .compare .a (.mem (.abx v)) (by simp [Instr.operation]) rfl, fun _ => rfl⟩
  | cmpAby v => exact ⟨_, .compare .a (.mem (.aby v)) (by simp [Instr.operation]) rfl, fun _ => rfl⟩
  | cmpIzx v => exact ⟨_, .compare .a (.mem (.izx v)) (by simp [Instr.operation]) rfl, fun _ => rfl⟩
  | cmpIzy v => exact ⟨_, .compare .a (.mem (.izy v)) (by simp [Instr.operation]) rfl, fun _ => rfl⟩
  | cpxImm v => exact ⟨_, .compare .x (.imm v) (by simp [Instr.operation]) rfl, fun _ => rfl⟩
  | cpxZp v => exact ⟨_, .compare .x (.mem (.zp v)) (by simp [Instr.operation]) rfl, fun _ => rfl⟩
  | cpxAbs v => exact ⟨_, .compare .x (.mem (.abs v)) (by simp [Instr.operation]) rfl, fun _ => rfl⟩
  | cpyImm v => exact ⟨_, .compare .y (.imm v) (by simp [Instr.operation]) rfl, fun _ => rfl⟩
  | cpyZp v => exact ⟨_, .compare .y (.mem (.zp v)) (by simp [Instr.operation]) rfl, fun _ => rfl⟩
  | cpyAbs v => exact ⟨_, .compare .y (.mem (.abs v)) (by simp [Instr.operation]) rfl, fun _ => rfl⟩
  | bcc v => exact ⟨_, .branch _ v rfl rfl, fun _ => rfl⟩
  | bcs v => exact ⟨_, .branch _ v rfl rfl, fun _ => rfl⟩
  | beq v => exact ⟨_, .branch _ v rfl rfl, fun _ => rfl⟩
  | bne v => exact ⟨_, .branch _ v rfl rfl, fun _ => rfl⟩
  | bmi v => exact ⟨_, .branch _ v rfl rfl, fun _ => rfl⟩
  | bpl v => exact ⟨_, .branch _ v rfl rfl, fun _ => rfl⟩
  | bvc v => exact ⟨_, .branch _ v rfl rfl, fun _ => rfl⟩
  | bvs v => exact ⟨_, .branch _ v rfl rfl, fun _ => rfl⟩
  | jmpAbs v => exact ⟨_, .jump (.abs v) rfl rfl, fun _ => rfl⟩
  | jmpInd v => exact ⟨_, .jump (.ind v) rfl rfl, fun _ => rfl⟩
  | jsr v => exact ⟨_, .jumpToSubroutine v rfl rfl, fun _ => rfl⟩
  | rts => exact ⟨_, .returnFromSubroutine rfl rfl, fun _ => rfl⟩
  | pha => exact ⟨_, .pushAccumulator rfl rfl, fun _ => rfl⟩
  | php => exact ⟨_, .pushStatus rfl rfl, fun _ => rfl⟩
  | pla => exact ⟨_, .pullAccumulator rfl rfl, fun _ => rfl⟩
  | plp => exact ⟨_, .pullStatus rfl rfl, fun _ => rfl⟩
  | brk => exact ⟨_, .softwareInterrupt rfl rfl, fun _ => rfl⟩
  | rti => exact ⟨_, .returnFromInterrupt rfl rfl, fun _ => rfl⟩
  | clc => exact ⟨_, .setFlag _ rfl (.inl ⟨rfl, rfl⟩), fun _ => rfl⟩
  | cld => exact ⟨_, .setFlag _ rfl (.inr (.inl ⟨rfl, rfl⟩)), fun _ => rfl⟩
  | cli => exact ⟨_, .setFlag _ rfl (.inr (.inr (.inl ⟨rfl, rfl⟩))), fun _ => rfl⟩
  | clv => exact ⟨_, .setFlag _ rfl (.inr (.inr (.inr (.inl ⟨rfl, rfl⟩)))), fun _ => rfl⟩
  | sec => exact ⟨_, .setFlag _ rfl (.inr (.inr (.inr (.inr (.inl ⟨rfl, rfl⟩))))), fun _ => rfl⟩
  | sed => exact ⟨_, .setFlag _ rfl (.inr (.inr (.inr (.inr (.inr (.inl ⟨rfl, rfl⟩)))))), fun _ => rfl⟩
  | sei => exact ⟨_, .setFlag _ rfl (.inr (.inr (.inr (.inr (.inr (.inr (⟨rfl, rfl⟩))))))), fun _ => rfl⟩
  | nop => exact ⟨_, .nothing rfl rfl, fun _ => rfl⟩

end Sys2Proof.Machine
end

