-- ==== Sys2Proof/Laws/Step.lean ====
section
/-! SUPPORT. What beginning a transition and fetching an instruction do, and how a cycle report stands beside an effect. -/

namespace Sys2Proof.Machine

@[simp] theorem beginTransition_a (s : State) : (beginTransition s).a = s.a := rfl
@[simp] theorem beginTransition_x (s : State) : (beginTransition s).x = s.x := rfl
@[simp] theorem beginTransition_y (s : State) : (beginTransition s).y = s.y := rfl
@[simp] theorem beginTransition_sp (s : State) : (beginTransition s).sp = s.sp := rfl
@[simp] theorem beginTransition_pc (s : State) : (beginTransition s).pc = s.pc := rfl
@[simp] theorem beginTransition_p (s : State) : (beginTransition s).p = s.p := rfl
@[simp] theorem beginTransition_inputs (s : State) : (beginTransition s).inputs = s.inputs.tail := rfl
@[simp] theorem beginTransition_responses (s : State) : (beginTransition s).responses = s.responses := rfl
@[simp] theorem beginTransition_cycleTable (s : State) : (beginTransition s).cycleTable = s.cycleTable := rfl
@[simp] theorem beginTransition_bus (s : State) : (beginTransition s).bus = [] := rfl
@[simp] theorem beginTransition_cycles (s : State) : (beginTransition s).cycles = none := rfl

/-- A byte with no entry: the fetch consumes that byte and no other (R241). -/
theorem fetchInstruction_undefined {s : State} (h : dispatchTable (answer s.pc s) = none) :
    fetchInstruction s = .invalid (answer s.pc s) (fetch8 s).2 := by
  simp [fetchInstruction, h]

/-- An instruction of one byte (R80, R92). -/
theorem fetchInstruction_bare {s : State} {i : Instr} (h : dispatchTable (answer s.pc s) = some (.bare i)) :
    fetchInstruction s = .instr i (fetch8 s).2 := by
  simp [fetchInstruction, h]

/-- An instruction of two bytes (R80, R92). -/
theorem fetchInstruction_byte {s : State} {f : Byte → Instr} (h : dispatchTable (answer s.pc s) = some (.byte f)) :
    fetchInstruction s = .instr (f (fetch8 (fetch8 s).2).1) (fetch8 (fetch8 s).2).2 := by
  simp [fetchInstruction, h]

/-- An instruction of three bytes, the operand low byte first (R80, R83, R92). -/
theorem fetchInstruction_word {s : State} {f : Word → Instr} (h : dispatchTable (answer s.pc s) = some (.word f)) :
    fetchInstruction s = .instr (f (fetch16 (fetch8 s).2).1) (fetch16 (fetch8 s).2).2 := by
  simp [fetchInstruction, h]

/-- A cycle report makes no outcome into another kind. -/
theorem withCycles_next {n : Nat} {o : Host.Outcome State Fault Refusal} {t : State} (h : withCycles n o = .next t) :
    ∃ u, o = .next u ∧ t = u.setCycles (some n) := by
  cases o with
  | next u => exact ⟨u, rfl, by cases h; rfl⟩
  | fault r => cases h
  | refused r => cases h

end Sys2Proof.Machine
end

