-- ==== Sys2Proof/Laws/Environment.lean ====
section
/-! SUPPORT. What the environment of the memory port does: plain RAM answers with what memory holds and stores what is written,
and a byte that no response changes keeps its value through every access that does not store to it. -/

namespace Sys2Proof.Machine

/-- Changes at other addresses leave a byte alone. -/
theorem read_applyHostWrites_other {a : Word} : ∀ {l : List (Word × Byte)} (m : Memory), (∀ c ∈ l, c.1 ≠ a) →
    Memory.read (applyHostWrites l m) a.toNat = Memory.read m a.toNat
  | [], _, _ => rfl
  | (k, v) :: rest, m, h => by
    rw [applyHostWrites, read_applyHostWrites_other _ fun c hc => h c (List.mem_cons_of_mem _ hc)]
    exact Memory.read_write_other (fun e => h (k, v) List.mem_cons_self (BitVec.eq_of_toNat_eq e).symm) v m

/-- An environment that leaves a byte alone leaves it alone at a read. -/
theorem peek_busRead {a : Word} {s : State} (h : EnvironmentLeaves a s) (b : Word) : peek (busRead b s).2 a = peek s a := by
  unfold peek
  rw [busRead_mem]
  unfold memoryAfterRead
  split
  · rfl
  · rfl
  · rename_i v changes rest hr
    exact read_applyHostWrites_other _ fun c hc => h (.device v changes) (by rw [hr]; exact List.mem_cons_self) c hc

/-- And at a write of another address. -/
theorem peek_busWrite_other {a b : Word} {s : State} (h : EnvironmentLeaves a s) (hab : a ≠ b) (v : Byte) :
    peek (busWrite b v s) a = peek s a := by
  unfold peek
  rw [busWrite_mem]
  unfold memoryAfterWrite
  split
  · exact Memory.read_write_other (fun e => hab (BitVec.eq_of_toNat_eq e)) v s.mem
  · exact Memory.read_write_other (fun e => hab (BitVec.eq_of_toNat_eq e)) v s.mem
  · rename_i w changes rest hr
    exact read_applyHostWrites_other _ fun c hc => h (.device w changes) (by rw [hr]; exact List.mem_cons_self) c hc

/-- Leaving a byte alone carries over to any state with no other responses. -/
theorem EnvironmentLeaves.of_subset {a : Word} {s t : State} (h : EnvironmentLeaves a s) (ht : t.responses ⊆ s.responses) :
    EnvironmentLeaves a t := fun r hr => h r (ht hr)

theorem EnvironmentLeaves.busRead {a : Word} {s : State} (h : EnvironmentLeaves a s) (b : Word) :
    EnvironmentLeaves a (busRead b s).2 := h.of_subset (List.tail_subset _)

theorem EnvironmentLeaves.busWrite {a : Word} {s : State} (h : EnvironmentLeaves a s) (b : Word) (v : Byte) :
    EnvironmentLeaves a (busWrite b v s) := h.of_subset (List.tail_subset _)

/-- Reads change no byte that the environment leaves alone. -/
theorem peek_portReads {a : Word} (l : List Word) {s : State} (h : EnvironmentLeaves a s) :
    peek (portReads l s).2 a = peek s a := by
  induction l generalizing s with
  | nil => rfl
  | cons b l ih => exact (ih (s := (Machine.busRead b s).2) (h.busRead b)).trans (peek_busRead h b)

theorem EnvironmentLeaves.portReads {a : Word} (l : List Word) {s : State} (h : EnvironmentLeaves a s) :
    EnvironmentLeaves a (portReads l s).2 := by
  induction l generalizing s with
  | nil => exact h
  | cons b l ih => exact ih (s := (Machine.busRead b s).2) (h.busRead b)

/-- Writes change no byte at another address that the environment leaves alone. -/
theorem peek_portWrites {a : Word} (l : List (Word × Byte)) {s : State} (h : EnvironmentLeaves a s)
    (hl : ∀ c ∈ l, c.1 ≠ a) : peek (portWrites l s) a = peek s a := by
  induction l generalizing s with
  | nil => rfl
  | cons c l ih =>
    exact (ih (s := Machine.busWrite c.1 c.2 s) (h.busWrite c.1 c.2) fun d hd => hl d (List.mem_cons_of_mem _ hd)).trans
      (peek_busWrite_other h (hl c List.mem_cons_self).symm c.2)

/-- Plain RAM changes no byte of its own. -/
theorem PlainRam.leaves {s : State} (h : PlainRam s) (a : Word) : EnvironmentLeaves a s := by
  intro r hr
  rw [h r hr]
  intro c hc
  cases hc

/-- Plain RAM carries over to any state with no other responses. -/
theorem PlainRam.of_subset {s t : State} (h : PlainRam s) (ht : t.responses ⊆ s.responses) : PlainRam t :=
  fun r hr => h r (ht hr)

/-- Plain RAM answers with the byte memory holds (R52). -/
theorem PlainRam.answer {s : State} (h : PlainRam s) (a : Word) : answer a s = peek s a := by
  unfold Machine.answer
  split
  · rfl
  · rfl
  · rename_i v changes rest hr
    cases h (.device v changes) (by rw [hr]; exact List.mem_cons_self)

/-- Plain RAM stores what is written (R52). -/
theorem PlainRam.memoryAfterWrite {s : State} (h : PlainRam s) (a : Word) (v : Byte) :
    memoryAfterWrite a v s = Memory.write s.mem a.toNat v := by
  unfold Machine.memoryAfterWrite
  split
  · rfl
  · rfl
  · rename_i w changes rest hr
    cases h (.device w changes) (by rw [hr]; exact List.mem_cons_self)

/-- A write to plain RAM is seen by a later read of its address (R52, R66). -/
theorem peek_busWrite_same {s : State} (h : PlainRam s) (hm : Memory.wf s.mem = true) (a : Word) (v : Byte) :
    peek (busWrite a v s) a = v := by
  unfold peek
  rw [busWrite_mem, h.memoryAfterWrite]
  exact Memory.read_write_same hm a.toNat v

/-- A push into plain RAM is seen at the address S denoted (R210). -/
theorem peek_push8_same {s : State} (h : PlainRam s) (hm : Memory.wf s.mem = true) (v : Byte) :
    peek (push8 v s) (stackAddress s.sp) = v := by
  rw [push8, peek_setReg]
  exact peek_busWrite_same h hm _ v

/-- A push changes no byte at another address that the environment leaves alone. -/
theorem peek_push8_other {a : Word} {s : State} (h : EnvironmentLeaves a s) (ha : a ≠ stackAddress s.sp) (v : Byte) :
    peek (push8 v s) a = peek s a := by
  rw [push8, peek_setReg]
  exact peek_busWrite_other h ha v

/-- An entry is three writes and two reads; it changes S, I, PC and the memory port (R220, R248). -/
theorem takeInterrupt_port (brk : Bool) (ret vector : Word) (s : State) :
    takeInterrupt brk ret vector s =
      { withPort s (portReads [vector, vector + 1] (portWrites (frameBytes brk ret s) s)).2 with
        sp := s.sp - 3#8
        p := { s.p with i := true }
        pc := joinBytes (answer (vector + 1) (busRead vector (portWrites (frameBytes brk ret s) s)).2)
          (answer vector (portWrites (frameBytes brk ret s) s)) } := by
  have h2 : s.sp - 1#8 - 1#8 = s.sp - 2#8 := by bv_omega
  have h3 : s.sp - 2#8 - 1#8 = s.sp - 3#8 := by bv_omega
  rw [takeInterrupt_eq, loadVector_eq, pushFrame_eq, h2, h3, ← frameBytes]
  have h := portWrites_withPort (frameBytes brk ret s) s
  generalize portWrites (frameBytes brk ret s) s = u at h
  rw [← h]
  apply State.ext_fields <;> simp [portReads]

/-! Fetching. -/

theorem fetchAddresses_one (s : State) : fetchAddresses s 1 = [s.pc] := by simp [fetchAddresses, List.range_succ]
theorem fetchAddresses_two (s : State) : fetchAddresses s 2 = [s.pc, s.pc + 1] := by simp [fetchAddresses, List.range_succ]
theorem fetchAddresses_three (s : State) : fetchAddresses s 3 = [s.pc, s.pc + 1, s.pc + 2] := by
  simp [fetchAddresses, List.range_succ]

/-- When the bytes the fetch is answered decode to an instruction, the fetch gives it, with PC past its bytes (R59, R92). -/
theorem fetchInstruction_of_decode {s u : State} {i : Instr} {bytes : List Byte} (hd : decode bytes = .instr i [])
    (h : portReads (fetchAddresses s i.format.length) s = (bytes, u)) :
    fetchInstruction s = .instr i (u.setPc (s.pc + BitVec.ofNat 16 i.format.length)) := by
  cases bytes with
  | nil => cases hd
  | cons b rest =>
    rw [decode] at hd
    cases ht : dispatchTable b with
    | none => rw [ht] at hd; cases hd
    | some t =>
      rw [ht] at hd
      have hl := dispatchTable_length ht
      cases t with
      | bare j =>
        simp only [decodeOperand, DecodeResult.instr.injEq] at hd
        obtain ⟨rfl, rfl⟩ := hd
        rw [show j.format.length = 1 from hl] at h ⊢
        rw [fetchAddresses_one] at h
        simp only [portReads, busRead_value, Prod.mk.injEq, List.cons.injEq, and_true] at h
        obtain ⟨rfl, rfl⟩ := h
        exact fetchInstruction_bare ht
      | byte f =>
        rcases rest with _ | ⟨b1, _ | ⟨b2, rest⟩⟩ <;> cases hd
        rw [show (f b1).format.length = 2 from hl b1] at h ⊢
        rw [fetchAddresses_two] at h
        simp [portReads] at h
        obtain ⟨⟨rfl, rfl⟩, rfl⟩ := h
        rw [fetchInstruction_byte ht]
        simp only [fetch8_state, fetch8_value, Fetched.instr.injEq]
        refine ⟨by simp, ?_⟩
        apply State.ext_fields <;> simp
        bv_omega
      | word f =>
        rcases rest with _ | ⟨b1, _ | ⟨b2, _ | ⟨b3, rest⟩⟩⟩ <;> cases hd
        rw [show (f (joinBytes b2 b1)).format.length = 3 from hl _] at h ⊢
        rw [fetchAddresses_three] at h
        have h2 : s.pc + 1#16 + 1#16 = s.pc + 2#16 := by bv_omega
        have h3 : s.pc + 2#16 + 1#16 = s.pc + 3#16 := by bv_omega
        simp [portReads] at h
        obtain ⟨⟨rfl, rfl, rfl⟩, rfl⟩ := h
        rw [fetchInstruction_word ht]
        simp only [fetch8_state, fetch16_eq, fetch8_value, Fetched.instr.injEq]
        refine ⟨by simp [h2], ?_⟩
        apply State.ext_fields <;> simp [h2, h3]

end Sys2Proof.Machine
end

