-- ==== Sys2Proof/Laws/PerInstr.lean ====
section
/-! SUPPORT. Per-instruction facts about syntax: one lemma per constructor of Instr. -/

/-- The instruction is well formed (R85, R86) and its encoding has the length its format gives (R81). -/
def Sys2Proof.Laws.WordShape.Statement (i : Sys2Proof.Instr) : Prop :=
  i.wellFormed = true ∧ (Sys2Proof.encode i).length = i.format.length

theorem Sys2Proof.Laws.WordShape.ldaImm (imm8 : Sys2Proof.Byte) : Sys2Proof.Laws.WordShape.Statement (.ldaImm imm8) := ⟨rfl, rfl⟩
theorem Sys2Proof.Laws.WordShape.ldaZp (zp8 : Sys2Proof.Byte) : Sys2Proof.Laws.WordShape.Statement (.ldaZp zp8) := ⟨rfl, rfl⟩
theorem Sys2Proof.Laws.WordShape.ldaZpx (zp8 : Sys2Proof.Byte) : Sys2Proof.Laws.WordShape.Statement (.ldaZpx zp8) := ⟨rfl, rfl⟩
theorem Sys2Proof.Laws.WordShape.ldaAbs (addr : Sys2Proof.Word) : Sys2Proof.Laws.WordShape.Statement (.ldaAbs addr) := ⟨rfl, rfl⟩
theorem Sys2Proof.Laws.WordShape.ldaAbx (addr : Sys2Proof.Word) : Sys2Proof.Laws.WordShape.Statement (.ldaAbx addr) := ⟨rfl, rfl⟩
theorem Sys2Proof.Laws.WordShape.ldaAby (addr : Sys2Proof.Word) : Sys2Proof.Laws.WordShape.Statement (.ldaAby addr) := ⟨rfl, rfl⟩
theorem Sys2Proof.Laws.WordShape.ldaIzx (zp8 : Sys2Proof.Byte) : Sys2Proof.Laws.WordShape.Statement (.ldaIzx zp8) := ⟨rfl, rfl⟩
theorem Sys2Proof.Laws.WordShape.ldaIzy (zp8 : Sys2Proof.Byte) : Sys2Proof.Laws.WordShape.Statement (.ldaIzy zp8) := ⟨rfl, rfl⟩
theorem Sys2Proof.Laws.WordShape.ldxImm (imm8 : Sys2Proof.Byte) : Sys2Proof.Laws.WordShape.Statement (.ldxImm imm8) := ⟨rfl, rfl⟩
theorem Sys2Proof.Laws.WordShape.ldxZp (zp8 : Sys2Proof.Byte) : Sys2Proof.Laws.WordShape.Statement (.ldxZp zp8) := ⟨rfl, rfl⟩
theorem Sys2Proof.Laws.WordShape.ldxZpy (zp8 : Sys2Proof.Byte) : Sys2Proof.Laws.WordShape.Statement (.ldxZpy zp8) := ⟨rfl, rfl⟩
theorem Sys2Proof.Laws.WordShape.ldxAbs (addr : Sys2Proof.Word) : Sys2Proof.Laws.WordShape.Statement (.ldxAbs addr) := ⟨rfl, rfl⟩
theorem Sys2Proof.Laws.WordShape.ldxAby (addr : Sys2Proof.Word) : Sys2Proof.Laws.WordShape.Statement (.ldxAby addr) := ⟨rfl, rfl⟩
theorem Sys2Proof.Laws.WordShape.ldyImm (imm8 : Sys2Proof.Byte) : Sys2Proof.Laws.WordShape.Statement (.ldyImm imm8) := ⟨rfl, rfl⟩
theorem Sys2Proof.Laws.WordShape.ldyZp (zp8 : Sys2Proof.Byte) : Sys2Proof.Laws.WordShape.Statement (.ldyZp zp8) := ⟨rfl, rfl⟩
theorem Sys2Proof.Laws.WordShape.ldyZpx (zp8 : Sys2Proof.Byte) : Sys2Proof.Laws.WordShape.Statement (.ldyZpx zp8) := ⟨rfl, rfl⟩
theorem Sys2Proof.Laws.WordShape.ldyAbs (addr : Sys2Proof.Word) : Sys2Proof.Laws.WordShape.Statement (.ldyAbs addr) := ⟨rfl, rfl⟩
theorem Sys2Proof.Laws.WordShape.ldyAbx (addr : Sys2Proof.Word) : Sys2Proof.Laws.WordShape.Statement (.ldyAbx addr) := ⟨rfl, rfl⟩
theorem Sys2Proof.Laws.WordShape.staZp (zp8 : Sys2Proof.Byte) : Sys2Proof.Laws.WordShape.Statement (.staZp zp8) := ⟨rfl, rfl⟩
theorem Sys2Proof.Laws.WordShape.staZpx (zp8 : Sys2Proof.Byte) : Sys2Proof.Laws.WordShape.Statement (.staZpx zp8) := ⟨rfl, rfl⟩
theorem Sys2Proof.Laws.WordShape.staAbs (addr : Sys2Proof.Word) : Sys2Proof.Laws.WordShape.Statement (.staAbs addr) := ⟨rfl, rfl⟩
theorem Sys2Proof.Laws.WordShape.staAbx (addr : Sys2Proof.Word) : Sys2Proof.Laws.WordShape.Statement (.staAbx addr) := ⟨rfl, rfl⟩
theorem Sys2Proof.Laws.WordShape.staAby (addr : Sys2Proof.Word) : Sys2Proof.Laws.WordShape.Statement (.staAby addr) := ⟨rfl, rfl⟩
theorem Sys2Proof.Laws.WordShape.staIzx (zp8 : Sys2Proof.Byte) : Sys2Proof.Laws.WordShape.Statement (.staIzx zp8) := ⟨rfl, rfl⟩
theorem Sys2Proof.Laws.WordShape.staIzy (zp8 : Sys2Proof.Byte) : Sys2Proof.Laws.WordShape.Statement (.staIzy zp8) := ⟨rfl, rfl⟩
theorem Sys2Proof.Laws.WordShape.stxZp (zp8 : Sys2Proof.Byte) : Sys2Proof.Laws.WordShape.Statement (.stxZp zp8) := ⟨rfl, rfl⟩
theorem Sys2Proof.Laws.WordShape.stxZpy (zp8 : Sys2Proof.Byte) : Sys2Proof.Laws.WordShape.Statement (.stxZpy zp8) := ⟨rfl, rfl⟩
theorem Sys2Proof.Laws.WordShape.stxAbs (addr : Sys2Proof.Word) : Sys2Proof.Laws.WordShape.Statement (.stxAbs addr) := ⟨rfl, rfl⟩
theorem Sys2Proof.Laws.WordShape.styZp (zp8 : Sys2Proof.Byte) : Sys2Proof.Laws.WordShape.Statement (.styZp zp8) := ⟨rfl, rfl⟩
theorem Sys2Proof.Laws.WordShape.styZpx (zp8 : Sys2Proof.Byte) : Sys2Proof.Laws.WordShape.Statement (.styZpx zp8) := ⟨rfl, rfl⟩
theorem Sys2Proof.Laws.WordShape.styAbs (addr : Sys2Proof.Word) : Sys2Proof.Laws.WordShape.Statement (.styAbs addr) := ⟨rfl, rfl⟩
theorem Sys2Proof.Laws.WordShape.tax : Sys2Proof.Laws.WordShape.Statement (.tax) := ⟨rfl, rfl⟩
theorem Sys2Proof.Laws.WordShape.tay : Sys2Proof.Laws.WordShape.Statement (.tay) := ⟨rfl, rfl⟩
theorem Sys2Proof.Laws.WordShape.txa : Sys2Proof.Laws.WordShape.Statement (.txa) := ⟨rfl, rfl⟩
theorem Sys2Proof.Laws.WordShape.tya : Sys2Proof.Laws.WordShape.Statement (.tya) := ⟨rfl, rfl⟩
theorem Sys2Proof.Laws.WordShape.tsx : Sys2Proof.Laws.WordShape.Statement (.tsx) := ⟨rfl, rfl⟩
theorem Sys2Proof.Laws.WordShape.txs : Sys2Proof.Laws.WordShape.Statement (.txs) := ⟨rfl, rfl⟩
theorem Sys2Proof.Laws.WordShape.andImm (imm8 : Sys2Proof.Byte) : Sys2Proof.Laws.WordShape.Statement (.andImm imm8) := ⟨rfl, rfl⟩
theorem Sys2Proof.Laws.WordShape.andZp (zp8 : Sys2Proof.Byte) : Sys2Proof.Laws.WordShape.Statement (.andZp zp8) := ⟨rfl, rfl⟩
theorem Sys2Proof.Laws.WordShape.andZpx (zp8 : Sys2Proof.Byte) : Sys2Proof.Laws.WordShape.Statement (.andZpx zp8) := ⟨rfl, rfl⟩
theorem Sys2Proof.Laws.WordShape.andAbs (addr : Sys2Proof.Word) : Sys2Proof.Laws.WordShape.Statement (.andAbs addr) := ⟨rfl, rfl⟩
theorem Sys2Proof.Laws.WordShape.andAbx (addr : Sys2Proof.Word) : Sys2Proof.Laws.WordShape.Statement (.andAbx addr) := ⟨rfl, rfl⟩
theorem Sys2Proof.Laws.WordShape.andAby (addr : Sys2Proof.Word) : Sys2Proof.Laws.WordShape.Statement (.andAby addr) := ⟨rfl, rfl⟩
theorem Sys2Proof.Laws.WordShape.andIzx (zp8 : Sys2Proof.Byte) : Sys2Proof.Laws.WordShape.Statement (.andIzx zp8) := ⟨rfl, rfl⟩
theorem Sys2Proof.Laws.WordShape.andIzy (zp8 : Sys2Proof.Byte) : Sys2Proof.Laws.WordShape.Statement (.andIzy zp8) := ⟨rfl, rfl⟩
theorem Sys2Proof.Laws.WordShape.oraImm (imm8 : Sys2Proof.Byte) : Sys2Proof.Laws.WordShape.Statement (.oraImm imm8) := ⟨rfl, rfl⟩
theorem Sys2Proof.Laws.WordShape.oraZp (zp8 : Sys2Proof.Byte) : Sys2Proof.Laws.WordShape.Statement (.oraZp zp8) := ⟨rfl, rfl⟩
theorem Sys2Proof.Laws.WordShape.oraZpx (zp8 : Sys2Proof.Byte) : Sys2Proof.Laws.WordShape.Statement (.oraZpx zp8) := ⟨rfl, rfl⟩
theorem Sys2Proof.Laws.WordShape.oraAbs (addr : Sys2Proof.Word) : Sys2Proof.Laws.WordShape.Statement (.oraAbs addr) := ⟨rfl, rfl⟩
theorem Sys2Proof.Laws.WordShape.oraAbx (addr : Sys2Proof.Word) : Sys2Proof.Laws.WordShape.Statement (.oraAbx addr) := ⟨rfl, rfl⟩
theorem Sys2Proof.Laws.WordShape.oraAby (addr : Sys2Proof.Word) : Sys2Proof.Laws.WordShape.Statement (.oraAby addr) := ⟨rfl, rfl⟩
theorem Sys2Proof.Laws.WordShape.oraIzx (zp8 : Sys2Proof.Byte) : Sys2Proof.Laws.WordShape.Statement (.oraIzx zp8) := ⟨rfl, rfl⟩
theorem Sys2Proof.Laws.WordShape.oraIzy (zp8 : Sys2Proof.Byte) : Sys2Proof.Laws.WordShape.Statement (.oraIzy zp8) := ⟨rfl, rfl⟩
theorem Sys2Proof.Laws.WordShape.eorImm (imm8 : Sys2Proof.Byte) : Sys2Proof.Laws.WordShape.Statement (.eorImm imm8) := ⟨rfl, rfl⟩
theorem Sys2Proof.Laws.WordShape.eorZp (zp8 : Sys2Proof.Byte) : Sys2Proof.Laws.WordShape.Statement (.eorZp zp8) := ⟨rfl, rfl⟩
theorem Sys2Proof.Laws.WordShape.eorZpx (zp8 : Sys2Proof.Byte) : Sys2Proof.Laws.WordShape.Statement (.eorZpx zp8) := ⟨rfl, rfl⟩
theorem Sys2Proof.Laws.WordShape.eorAbs (addr : Sys2Proof.Word) : Sys2Proof.Laws.WordShape.Statement (.eorAbs addr) := ⟨rfl, rfl⟩
theorem Sys2Proof.Laws.WordShape.eorAbx (addr : Sys2Proof.Word) : Sys2Proof.Laws.WordShape.Statement (.eorAbx addr) := ⟨rfl, rfl⟩
theorem Sys2Proof.Laws.WordShape.eorAby (addr : Sys2Proof.Word) : Sys2Proof.Laws.WordShape.Statement (.eorAby addr) := ⟨rfl, rfl⟩
theorem Sys2Proof.Laws.WordShape.eorIzx (zp8 : Sys2Proof.Byte) : Sys2Proof.Laws.WordShape.Statement (.eorIzx zp8) := ⟨rfl, rfl⟩
theorem Sys2Proof.Laws.WordShape.eorIzy (zp8 : Sys2Proof.Byte) : Sys2Proof.Laws.WordShape.Statement (.eorIzy zp8) := ⟨rfl, rfl⟩
theorem Sys2Proof.Laws.WordShape.bitZp (zp8 : Sys2Proof.Byte) : Sys2Proof.Laws.WordShape.Statement (.bitZp zp8) := ⟨rfl, rfl⟩
theorem Sys2Proof.Laws.WordShape.bitAbs (addr : Sys2Proof.Word) : Sys2Proof.Laws.WordShape.Statement (.bitAbs addr) := ⟨rfl, rfl⟩
theorem Sys2Proof.Laws.WordShape.incZp (zp8 : Sys2Proof.Byte) : Sys2Proof.Laws.WordShape.Statement (.incZp zp8) := ⟨rfl, rfl⟩
theorem Sys2Proof.Laws.WordShape.incZpx (zp8 : Sys2Proof.Byte) : Sys2Proof.Laws.WordShape.Statement (.incZpx zp8) := ⟨rfl, rfl⟩
theorem Sys2Proof.Laws.WordShape.incAbs (addr : Sys2Proof.Word) : Sys2Proof.Laws.WordShape.Statement (.incAbs addr) := ⟨rfl, rfl⟩
theorem Sys2Proof.Laws.WordShape.incAbx (addr : Sys2Proof.Word) : Sys2Proof.Laws.WordShape.Statement (.incAbx addr) := ⟨rfl, rfl⟩
theorem Sys2Proof.Laws.WordShape.decZp (zp8 : Sys2Proof.Byte) : Sys2Proof.Laws.WordShape.Statement (.decZp zp8) := ⟨rfl, rfl⟩
theorem Sys2Proof.Laws.WordShape.decZpx (zp8 : Sys2Proof.Byte) : Sys2Proof.Laws.WordShape.Statement (.decZpx zp8) := ⟨rfl, rfl⟩
theorem Sys2Proof.Laws.WordShape.decAbs (addr : Sys2Proof.Word) : Sys2Proof.Laws.WordShape.Statement (.decAbs addr) := ⟨rfl, rfl⟩
theorem Sys2Proof.Laws.WordShape.decAbx (addr : Sys2Proof.Word) : Sys2Proof.Laws.WordShape.Statement (.decAbx addr) := ⟨rfl, rfl⟩
theorem Sys2Proof.Laws.WordShape.inx : Sys2Proof.Laws.WordShape.Statement (.inx) := ⟨rfl, rfl⟩
theorem Sys2Proof.Laws.WordShape.iny : Sys2Proof.Laws.WordShape.Statement (.iny) := ⟨rfl, rfl⟩
theorem Sys2Proof.Laws.WordShape.dex : Sys2Proof.Laws.WordShape.Statement (.dex) := ⟨rfl, rfl⟩
theorem Sys2Proof.Laws.WordShape.dey : Sys2Proof.Laws.WordShape.Statement (.dey) := ⟨rfl, rfl⟩
theorem Sys2Proof.Laws.WordShape.adcImm (imm8 : Sys2Proof.Byte) : Sys2Proof.Laws.WordShape.Statement (.adcImm imm8) := ⟨rfl, rfl⟩
theorem Sys2Proof.Laws.WordShape.adcZp (zp8 : Sys2Proof.Byte) : Sys2Proof.Laws.WordShape.Statement (.adcZp zp8) := ⟨rfl, rfl⟩
theorem Sys2Proof.Laws.WordShape.adcZpx (zp8 : Sys2Proof.Byte) : Sys2Proof.Laws.WordShape.Statement (.adcZpx zp8) := ⟨rfl, rfl⟩
theorem Sys2Proof.Laws.WordShape.adcAbs (addr : Sys2Proof.Word) : Sys2Proof.Laws.WordShape.Statement (.adcAbs addr) := ⟨rfl, rfl⟩
theorem Sys2Proof.Laws.WordShape.adcAbx (addr : Sys2Proof.Word) : Sys2Proof.Laws.WordShape.Statement (.adcAbx addr) := ⟨rfl, rfl⟩
theorem Sys2Proof.Laws.WordShape.adcAby (addr : Sys2Proof.Word) : Sys2Proof.Laws.WordShape.Statement (.adcAby addr) := ⟨rfl, rfl⟩
theorem Sys2Proof.Laws.WordShape.adcIzx (zp8 : Sys2Proof.Byte) : Sys2Proof.Laws.WordShape.Statement (.adcIzx zp8) := ⟨rfl, rfl⟩
theorem Sys2Proof.Laws.WordShape.adcIzy (zp8 : Sys2Proof.Byte) : Sys2Proof.Laws.WordShape.Statement (.adcIzy zp8) := ⟨rfl, rfl⟩
theorem Sys2Proof.Laws.WordShape.sbcImm (imm8 : Sys2Proof.Byte) : Sys2Proof.Laws.WordShape.Statement (.sbcImm imm8) := ⟨rfl, rfl⟩
theorem Sys2Proof.Laws.WordShape.sbcZp (zp8 : Sys2Proof.Byte) : Sys2Proof.Laws.WordShape.Statement (.sbcZp zp8) := ⟨rfl, rfl⟩
theorem Sys2Proof.Laws.WordShape.sbcZpx (zp8 : Sys2Proof.Byte) : Sys2Proof.Laws.WordShape.Statement (.sbcZpx zp8) := ⟨rfl, rfl⟩
theorem Sys2Proof.Laws.WordShape.sbcAbs (addr : Sys2Proof.Word) : Sys2Proof.Laws.WordShape.Statement (.sbcAbs addr) := ⟨rfl, rfl⟩
theorem Sys2Proof.Laws.WordShape.sbcAbx (addr : Sys2Proof.Word) : Sys2Proof.Laws.WordShape.Statement (.sbcAbx addr) := ⟨rfl, rfl⟩
theorem Sys2Proof.Laws.WordShape.sbcAby (addr : Sys2Proof.Word) : Sys2Proof.Laws.WordShape.Statement (.sbcAby addr) := ⟨rfl, rfl⟩
theorem Sys2Proof.Laws.WordShape.sbcIzx (zp8 : Sys2Proof.Byte) : Sys2Proof.Laws.WordShape.Statement (.sbcIzx zp8) := ⟨rfl, rfl⟩
theorem Sys2Proof.Laws.WordShape.sbcIzy (zp8 : Sys2Proof.Byte) : Sys2Proof.Laws.WordShape.Statement (.sbcIzy zp8) := ⟨rfl, rfl⟩
theorem Sys2Proof.Laws.WordShape.aslAcc : Sys2Proof.Laws.WordShape.Statement (.aslAcc) := ⟨rfl, rfl⟩
theorem Sys2Proof.Laws.WordShape.aslZp (zp8 : Sys2Proof.Byte) : Sys2Proof.Laws.WordShape.Statement (.aslZp zp8) := ⟨rfl, rfl⟩
theorem Sys2Proof.Laws.WordShape.aslZpx (zp8 : Sys2Proof.Byte) : Sys2Proof.Laws.WordShape.Statement (.aslZpx zp8) := ⟨rfl, rfl⟩
theorem Sys2Proof.Laws.WordShape.aslAbs (addr : Sys2Proof.Word) : Sys2Proof.Laws.WordShape.Statement (.aslAbs addr) := ⟨rfl, rfl⟩
theorem Sys2Proof.Laws.WordShape.aslAbx (addr : Sys2Proof.Word) : Sys2Proof.Laws.WordShape.Statement (.aslAbx addr) := ⟨rfl, rfl⟩
theorem Sys2Proof.Laws.WordShape.lsrAcc : Sys2Proof.Laws.WordShape.Statement (.lsrAcc) := ⟨rfl, rfl⟩
theorem Sys2Proof.Laws.WordShape.lsrZp (zp8 : Sys2Proof.Byte) : Sys2Proof.Laws.WordShape.Statement (.lsrZp zp8) := ⟨rfl, rfl⟩
theorem Sys2Proof.Laws.WordShape.lsrZpx (zp8 : Sys2Proof.Byte) : Sys2Proof.Laws.WordShape.Statement (.lsrZpx zp8) := ⟨rfl, rfl⟩
theorem Sys2Proof.Laws.WordShape.lsrAbs (addr : Sys2Proof.Word) : Sys2Proof.Laws.WordShape.Statement (.lsrAbs addr) := ⟨rfl, rfl⟩
theorem Sys2Proof.Laws.WordShape.lsrAbx (addr : Sys2Proof.Word) : Sys2Proof.Laws.WordShape.Statement (.lsrAbx addr) := ⟨rfl, rfl⟩
theorem Sys2Proof.Laws.WordShape.rolAcc : Sys2Proof.Laws.WordShape.Statement (.rolAcc) := ⟨rfl, rfl⟩
theorem Sys2Proof.Laws.WordShape.rolZp (zp8 : Sys2Proof.Byte) : Sys2Proof.Laws.WordShape.Statement (.rolZp zp8) := ⟨rfl, rfl⟩
theorem Sys2Proof.Laws.WordShape.rolZpx (zp8 : Sys2Proof.Byte) : Sys2Proof.Laws.WordShape.Statement (.rolZpx zp8) := ⟨rfl, rfl⟩
theorem Sys2Proof.Laws.WordShape.rolAbs (addr : Sys2Proof.Word) : Sys2Proof.Laws.WordShape.Statement (.rolAbs addr) := ⟨rfl, rfl⟩
theorem Sys2Proof.Laws.WordShape.rolAbx (addr : Sys2Proof.Word) : Sys2Proof.Laws.WordShape.Statement (.rolAbx addr) := ⟨rfl, rfl⟩
theorem Sys2Proof.Laws.WordShape.rorAcc : Sys2Proof.Laws.WordShape.Statement (.rorAcc) := ⟨rfl, rfl⟩
theorem Sys2Proof.Laws.WordShape.rorZp (zp8 : Sys2Proof.Byte) : Sys2Proof.Laws.WordShape.Statement (.rorZp zp8) := ⟨rfl, rfl⟩
theorem Sys2Proof.Laws.WordShape.rorZpx (zp8 : Sys2Proof.Byte) : Sys2Proof.Laws.WordShape.Statement (.rorZpx zp8) := ⟨rfl, rfl⟩
theorem Sys2Proof.Laws.WordShape.rorAbs (addr : Sys2Proof.Word) : Sys2Proof.Laws.WordShape.Statement (.rorAbs addr) := ⟨rfl, rfl⟩
theorem Sys2Proof.Laws.WordShape.rorAbx (addr : Sys2Proof.Word) : Sys2Proof.Laws.WordShape.Statement (.rorAbx addr) := ⟨rfl, rfl⟩
theorem Sys2Proof.Laws.WordShape.cmpImm (imm8 : Sys2Proof.Byte) : Sys2Proof.Laws.WordShape.Statement (.cmpImm imm8) := ⟨rfl, rfl⟩
theorem Sys2Proof.Laws.WordShape.cmpZp (zp8 : Sys2Proof.Byte) : Sys2Proof.Laws.WordShape.Statement (.cmpZp zp8) := ⟨rfl, rfl⟩
theorem Sys2Proof.Laws.WordShape.cmpZpx (zp8 : Sys2Proof.Byte) : Sys2Proof.Laws.WordShape.Statement (.cmpZpx zp8) := ⟨rfl, rfl⟩
theorem Sys2Proof.Laws.WordShape.cmpAbs (addr : Sys2Proof.Word) : Sys2Proof.Laws.WordShape.Statement (.cmpAbs addr) := ⟨rfl, rfl⟩
theorem Sys2Proof.Laws.WordShape.cmpAbx (addr : Sys2Proof.Word) : Sys2Proof.Laws.WordShape.Statement (.cmpAbx addr) := ⟨rfl, rfl⟩
theorem Sys2Proof.Laws.WordShape.cmpAby (addr : Sys2Proof.Word) : Sys2Proof.Laws.WordShape.Statement (.cmpAby addr) := ⟨rfl, rfl⟩
theorem Sys2Proof.Laws.WordShape.cmpIzx (zp8 : Sys2Proof.Byte) : Sys2Proof.Laws.WordShape.Statement (.cmpIzx zp8) := ⟨rfl, rfl⟩
theorem Sys2Proof.Laws.WordShape.cmpIzy (zp8 : Sys2Proof.Byte) : Sys2Proof.Laws.WordShape.Statement (.cmpIzy zp8) := ⟨rfl, rfl⟩
theorem Sys2Proof.Laws.WordShape.cpxImm (imm8 : Sys2Proof.Byte) : Sys2Proof.Laws.WordShape.Statement (.cpxImm imm8) := ⟨rfl, rfl⟩
theorem Sys2Proof.Laws.WordShape.cpxZp (zp8 : Sys2Proof.Byte) : Sys2Proof.Laws.WordShape.Statement (.cpxZp zp8) := ⟨rfl, rfl⟩
theorem Sys2Proof.Laws.WordShape.cpxAbs (addr : Sys2Proof.Word) : Sys2Proof.Laws.WordShape.Statement (.cpxAbs addr) := ⟨rfl, rfl⟩
theorem Sys2Proof.Laws.WordShape.cpyImm (imm8 : Sys2Proof.Byte) : Sys2Proof.Laws.WordShape.Statement (.cpyImm imm8) := ⟨rfl, rfl⟩
theorem Sys2Proof.Laws.WordShape.cpyZp (zp8 : Sys2Proof.Byte) : Sys2Proof.Laws.WordShape.Statement (.cpyZp zp8) := ⟨rfl, rfl⟩
theorem Sys2Proof.Laws.WordShape.cpyAbs (addr : Sys2Proof.Word) : Sys2Proof.Laws.WordShape.Statement (.cpyAbs addr) := ⟨rfl, rfl⟩
theorem Sys2Proof.Laws.WordShape.bcc (rel8 : Sys2Proof.Byte) : Sys2Proof.Laws.WordShape.Statement (.bcc rel8) := ⟨rfl, rfl⟩
theorem Sys2Proof.Laws.WordShape.bcs (rel8 : Sys2Proof.Byte) : Sys2Proof.Laws.WordShape.Statement (.bcs rel8) := ⟨rfl, rfl⟩
theorem Sys2Proof.Laws.WordShape.beq (rel8 : Sys2Proof.Byte) : Sys2Proof.Laws.WordShape.Statement (.beq rel8) := ⟨rfl, rfl⟩
theorem Sys2Proof.Laws.WordShape.bne (rel8 : Sys2Proof.Byte) : Sys2Proof.Laws.WordShape.Statement (.bne rel8) := ⟨rfl, rfl⟩
theorem Sys2Proof.Laws.WordShape.bmi (rel8 : Sys2Proof.Byte) : Sys2Proof.Laws.WordShape.Statement (.bmi rel8) := ⟨rfl, rfl⟩
theorem Sys2Proof.Laws.WordShape.bpl (rel8 : Sys2Proof.Byte) : Sys2Proof.Laws.WordShape.Statement (.bpl rel8) := ⟨rfl, rfl⟩
theorem Sys2Proof.Laws.WordShape.bvc (rel8 : Sys2Proof.Byte) : Sys2Proof.Laws.WordShape.Statement (.bvc rel8) := ⟨rfl, rfl⟩
theorem Sys2Proof.Laws.WordShape.bvs (rel8 : Sys2Proof.Byte) : Sys2Proof.Laws.WordShape.Statement (.bvs rel8) := ⟨rfl, rfl⟩
theorem Sys2Proof.Laws.WordShape.jmpAbs (addr : Sys2Proof.Word) : Sys2Proof.Laws.WordShape.Statement (.jmpAbs addr) := ⟨rfl, rfl⟩
theorem Sys2Proof.Laws.WordShape.jmpInd (ptr : Sys2Proof.Word) : Sys2Proof.Laws.WordShape.Statement (.jmpInd ptr) := ⟨rfl, rfl⟩
theorem Sys2Proof.Laws.WordShape.jsr (addr : Sys2Proof.Word) : Sys2Proof.Laws.WordShape.Statement (.jsr addr) := ⟨rfl, rfl⟩
theorem Sys2Proof.Laws.WordShape.rts : Sys2Proof.Laws.WordShape.Statement (.rts) := ⟨rfl, rfl⟩
theorem Sys2Proof.Laws.WordShape.pha : Sys2Proof.Laws.WordShape.Statement (.pha) := ⟨rfl, rfl⟩
theorem Sys2Proof.Laws.WordShape.php : Sys2Proof.Laws.WordShape.Statement (.php) := ⟨rfl, rfl⟩
theorem Sys2Proof.Laws.WordShape.pla : Sys2Proof.Laws.WordShape.Statement (.pla) := ⟨rfl, rfl⟩
theorem Sys2Proof.Laws.WordShape.plp : Sys2Proof.Laws.WordShape.Statement (.plp) := ⟨rfl, rfl⟩
theorem Sys2Proof.Laws.WordShape.brk : Sys2Proof.Laws.WordShape.Statement (.brk) := ⟨rfl, rfl⟩
theorem Sys2Proof.Laws.WordShape.rti : Sys2Proof.Laws.WordShape.Statement (.rti) := ⟨rfl, rfl⟩
theorem Sys2Proof.Laws.WordShape.clc : Sys2Proof.Laws.WordShape.Statement (.clc) := ⟨rfl, rfl⟩
theorem Sys2Proof.Laws.WordShape.cld : Sys2Proof.Laws.WordShape.Statement (.cld) := ⟨rfl, rfl⟩
theorem Sys2Proof.Laws.WordShape.cli : Sys2Proof.Laws.WordShape.Statement (.cli) := ⟨rfl, rfl⟩
theorem Sys2Proof.Laws.WordShape.clv : Sys2Proof.Laws.WordShape.Statement (.clv) := ⟨rfl, rfl⟩
theorem Sys2Proof.Laws.WordShape.sec : Sys2Proof.Laws.WordShape.Statement (.sec) := ⟨rfl, rfl⟩
theorem Sys2Proof.Laws.WordShape.sed : Sys2Proof.Laws.WordShape.Statement (.sed) := ⟨rfl, rfl⟩
theorem Sys2Proof.Laws.WordShape.sei : Sys2Proof.Laws.WordShape.Statement (.sei) := ⟨rfl, rfl⟩
theorem Sys2Proof.Laws.WordShape.nop : Sys2Proof.Laws.WordShape.Statement (.nop) := ⟨rfl, rfl⟩
end

