-- ==== Sys2Proof/Tests/Slice0.lean ====
section
/-! SUPPORT. Tests: well-formedness refuses what does not exist; the words of the opcode table, written out from 30_encoding.md
R82 and R86, decode to their instructions; one step of each instruction, with the results of spec/95_test_vectors.md; and for
every obligation with hypotheses, states and operands that meet them. -/

namespace Sys2Proof.Tests

open Sys2Proof.Machine

/-! Well-formedness (R85): pairs that do not exist are refused. -/

theorem test_wellFormed_refuses_sta_immediate : (Descriptor.mk .sta .imm).wellFormed = false := by decide
theorem test_wellFormed_refuses_ldx_absolute_x : (Descriptor.mk .ldx .abx).wellFormed = false := by decide
theorem test_wellFormed_refuses_jmp_zero_page : (Descriptor.mk .jmp .zp).wellFormed = false := by decide
theorem test_wellFormed_refuses_inc_accumulator : (Descriptor.mk .inc .acc).wellFormed = false := by decide
theorem test_wellFormed_accepts_stx_zero_page_y : (Descriptor.mk .stx .zpy).wellFormed = true := by decide

/-! Decoding: every opcode byte of R86, with operand bytes $34 $12 as its format asks for (low byte first, R83). -/

theorem test_decode_load_1 :
    ([
      [0xA1, 0x34], [0xA5, 0x34], [0xA9, 0x34], [0xAD, 0x34, 0x12], [0xB1, 0x34], [0xB5, 0x34], [0xB9, 0x34, 0x12],
      [0xBD, 0x34, 0x12], [0xA2, 0x34], [0xA6, 0x34], [0xAE, 0x34, 0x12], [0xB6, 0x34]] : List (List Byte)).map decode = [
      .ldaIzx 0x34, .ldaZp 0x34, .ldaImm 0x34, .ldaAbs 0x1234, .ldaIzy 0x34, .ldaZpx 0x34, .ldaAby 0x1234,
      .ldaAbx 0x1234, .ldxImm 0x34, .ldxZp 0x34, .ldxAbs 0x1234, .ldxZpy 0x34].map (DecodeResult.instr · []) := by decide

theorem test_decode_load_2 :
    ([
      [0xBE, 0x34, 0x12], [0xA0, 0x34], [0xA4, 0x34], [0xAC, 0x34, 0x12], [0xB4, 0x34], [0xBC, 0x34, 0x12]] : List (List Byte)).map decode = [
      .ldxAby 0x1234, .ldyImm 0x34, .ldyZp 0x34, .ldyAbs 0x1234, .ldyZpx 0x34, .ldyAbx 0x1234].map (DecodeResult.instr · []) := by decide

theorem test_decode_store_transfer_1 :
    ([
      [0x81, 0x34], [0x85, 0x34], [0x8D, 0x34, 0x12], [0x91, 0x34], [0x95, 0x34], [0x99, 0x34, 0x12],
      [0x9D, 0x34, 0x12], [0x86, 0x34], [0x8E, 0x34, 0x12], [0x96, 0x34], [0x84, 0x34], [0x8C, 0x34, 0x12]] : List (List Byte)).map decode = [
      .staIzx 0x34, .staZp 0x34, .staAbs 0x1234, .staIzy 0x34, .staZpx 0x34, .staAby 0x1234, .staAbx 0x1234,
      .stxZp 0x34, .stxAbs 0x1234, .stxZpy 0x34, .styZp 0x34, .styAbs 0x1234].map (DecodeResult.instr · []) := by decide

theorem test_decode_store_transfer_2 :
    ([
      [0x94, 0x34], [0xAA], [0xA8], [0x8A], [0x98], [0xBA], [0x9A]] : List (List Byte)).map decode = [
      .styZpx 0x34, .tax, .tay, .txa, .tya, .tsx, .txs].map (DecodeResult.instr · []) := by decide

theorem test_decode_logical_1 :
    ([
      [0x21, 0x34], [0x25, 0x34], [0x29, 0x34], [0x2D, 0x34, 0x12], [0x31, 0x34], [0x35, 0x34], [0x39, 0x34, 0x12],
      [0x3D, 0x34, 0x12], [0x01, 0x34], [0x05, 0x34], [0x09, 0x34], [0x0D, 0x34, 0x12]] : List (List Byte)).map decode = [
      .andIzx 0x34, .andZp 0x34, .andImm 0x34, .andAbs 0x1234, .andIzy 0x34, .andZpx 0x34, .andAby 0x1234,
      .andAbx 0x1234, .oraIzx 0x34, .oraZp 0x34, .oraImm 0x34, .oraAbs 0x1234].map (DecodeResult.instr · []) := by decide

theorem test_decode_logical_2 :
    ([
      [0x11, 0x34], [0x15, 0x34], [0x19, 0x34, 0x12], [0x1D, 0x34, 0x12], [0x41, 0x34], [0x45, 0x34], [0x49, 0x34],
      [0x4D, 0x34, 0x12], [0x51, 0x34], [0x55, 0x34], [0x59, 0x34, 0x12], [0x5D, 0x34, 0x12]] : List (List Byte)).map decode = [
      .oraIzy 0x34, .oraZpx 0x34, .oraAby 0x1234, .oraAbx 0x1234, .eorIzx 0x34, .eorZp 0x34, .eorImm 0x34,
      .eorAbs 0x1234, .eorIzy 0x34, .eorZpx 0x34, .eorAby 0x1234, .eorAbx 0x1234].map (DecodeResult.instr · []) := by decide

theorem test_decode_logical_3 :
    ([
      [0x24, 0x34], [0x2C, 0x34, 0x12]] : List (List Byte)).map decode = [
      .bitZp 0x34, .bitAbs 0x1234].map (DecodeResult.instr · []) := by decide

theorem test_decode_step :
    ([
      [0xE6, 0x34], [0xEE, 0x34, 0x12], [0xF6, 0x34], [0xFE, 0x34, 0x12], [0xC6, 0x34], [0xCE, 0x34, 0x12],
      [0xD6, 0x34], [0xDE, 0x34, 0x12], [0xE8], [0xC8], [0xCA], [0x88]] : List (List Byte)).map decode = [
      .incZp 0x34, .incAbs 0x1234, .incZpx 0x34, .incAbx 0x1234, .decZp 0x34, .decAbs 0x1234, .decZpx 0x34,
      .decAbx 0x1234, .inx, .iny, .dex, .dey].map (DecodeResult.instr · []) := by decide

theorem test_decode_arithmetic_1 :
    ([
      [0x61, 0x34], [0x65, 0x34], [0x69, 0x34], [0x6D, 0x34, 0x12], [0x71, 0x34], [0x75, 0x34], [0x79, 0x34, 0x12],
      [0x7D, 0x34, 0x12], [0xE1, 0x34], [0xE5, 0x34], [0xE9, 0x34], [0xED, 0x34, 0x12]] : List (List Byte)).map decode = [
      .adcIzx 0x34, .adcZp 0x34, .adcImm 0x34, .adcAbs 0x1234, .adcIzy 0x34, .adcZpx 0x34, .adcAby 0x1234,
      .adcAbx 0x1234, .sbcIzx 0x34, .sbcZp 0x34, .sbcImm 0x34, .sbcAbs 0x1234].map (DecodeResult.instr · []) := by decide

theorem test_decode_arithmetic_2 :
    ([
      [0xF1, 0x34], [0xF5, 0x34], [0xF9, 0x34, 0x12], [0xFD, 0x34, 0x12]] : List (List Byte)).map decode = [
      .sbcIzy 0x34, .sbcZpx 0x34, .sbcAby 0x1234, .sbcAbx 0x1234].map (DecodeResult.instr · []) := by decide

theorem test_decode_shift_1 :
    ([
      [0x06, 0x34], [0x0A], [0x0E, 0x34, 0x12], [0x16, 0x34], [0x1E, 0x34, 0x12], [0x46, 0x34], [0x4A],
      [0x4E, 0x34, 0x12], [0x56, 0x34], [0x5E, 0x34, 0x12], [0x26, 0x34], [0x2A]] : List (List Byte)).map decode = [
      .aslZp 0x34, .aslAcc, .aslAbs 0x1234, .aslZpx 0x34, .aslAbx 0x1234, .lsrZp 0x34, .lsrAcc, .lsrAbs 0x1234,
      .lsrZpx 0x34, .lsrAbx 0x1234, .rolZp 0x34, .rolAcc].map (DecodeResult.instr · []) := by decide

theorem test_decode_shift_2 :
    ([
      [0x2E, 0x34, 0x12], [0x36, 0x34], [0x3E, 0x34, 0x12], [0x66, 0x34], [0x6A], [0x6E, 0x34, 0x12], [0x76, 0x34],
      [0x7E, 0x34, 0x12]] : List (List Byte)).map decode = [
      .rolAbs 0x1234, .rolZpx 0x34, .rolAbx 0x1234, .rorZp 0x34, .rorAcc, .rorAbs 0x1234, .rorZpx 0x34, .rorAbx 0x1234].map (DecodeResult.instr · []) := by decide

theorem test_decode_compare_1 :
    ([
      [0xC1, 0x34], [0xC5, 0x34], [0xC9, 0x34], [0xCD, 0x34, 0x12], [0xD1, 0x34], [0xD5, 0x34], [0xD9, 0x34, 0x12],
      [0xDD, 0x34, 0x12], [0xE0, 0x34], [0xE4, 0x34], [0xEC, 0x34, 0x12], [0xC0, 0x34]] : List (List Byte)).map decode = [
      .cmpIzx 0x34, .cmpZp 0x34, .cmpImm 0x34, .cmpAbs 0x1234, .cmpIzy 0x34, .cmpZpx 0x34, .cmpAby 0x1234,
      .cmpAbx 0x1234, .cpxImm 0x34, .cpxZp 0x34, .cpxAbs 0x1234, .cpyImm 0x34].map (DecodeResult.instr · []) := by decide

theorem test_decode_compare_2 :
    ([
      [0xC4, 0x34], [0xCC, 0x34, 0x12]] : List (List Byte)).map decode = [
      .cpyZp 0x34, .cpyAbs 0x1234].map (DecodeResult.instr · []) := by decide

theorem test_decode_branch :
    ([
      [0x90, 0x34], [0xB0, 0x34], [0xF0, 0x34], [0xD0, 0x34], [0x30, 0x34], [0x10, 0x34], [0x50, 0x34], [0x70, 0x34]] : List (List Byte)).map decode = [
      .bcc 0x34, .bcs 0x34, .beq 0x34, .bne 0x34, .bmi 0x34, .bpl 0x34, .bvc 0x34, .bvs 0x34].map (DecodeResult.instr · []) := by decide

theorem test_decode_jump :
    ([
      [0x4C, 0x34, 0x12], [0x6C, 0x34, 0x12], [0x20, 0x34, 0x12], [0x60]] : List (List Byte)).map decode = [
      .jmpAbs 0x1234, .jmpInd 0x1234, .jsr 0x1234, .rts].map (DecodeResult.instr · []) := by decide

theorem test_decode_stack :
    ([
      [0x48], [0x08], [0x68], [0x28]] : List (List Byte)).map decode = [
      .pha, .php, .pla, .plp].map (DecodeResult.instr · []) := by decide

theorem test_decode_system :
    ([
      [0x00], [0x40], [0x18], [0xD8], [0x58], [0xB8], [0x38], [0xF8], [0x78], [0xEA]] : List (List Byte)).map decode = [
      .brk, .rti, .clc, .cld, .cli, .clv, .sec, .sed, .sei, .nop].map (DecodeResult.instr · []) := by decide

theorem test_decode_undefined : [0x02#8, 0x80#8, 0xEB#8, 0xFF#8].map (fun b => decode [b, 0x00#8]) =
    [.invalidOpcode 0x02, .invalidOpcode 0x80, .invalidOpcode 0xEB, .invalidOpcode 0xFF] := by decide

theorem test_decode_leaves_the_bytes_after : decode [0xA9#8, 0x05#8, 0xEA#8] = .instr (.ldaImm 0x05) [0xEA#8] := by decide

theorem test_decode_truncated : decode [0xAD#8, 0x34#8] = .truncated := by decide

theorem test_encode_low_byte_first : encode (.jmpInd 0x02FF) = [0x6C#8, 0xFF#8, 0x02#8] := by decide

theorem test_decodeTableWord_numbers_the_first_byte_lowest :
    decodeTableWord 24 0x1234AD = some (.ldaAbs 0x1234) ∧ decodeTableWord 8 0xAD = some (.ldaAbs 0x0000) := by decide

/-! Steps: each row of spec/95_test_vectors.md that is named, over its default start state. -/

/-- The default start state of spec/95_test_vectors.md. -/
def start : State where
  a := 0x00
  x := 0x00
  y := 0x00
  sp := 0xFF
  pc := 0x0200
  p := ⟨false, false, false, false, false, false, false⟩
  mem := []
  inputs := []
  responses := []
  cycleTable := Config.defaultCycleTable
  bus := []
  cycles := none

/-- Bytes at PC and other bytes of memory. -/
def withBytes (code : List Byte) (cells : List (Word × Byte)) (s : State) : State :=
  { s with mem := placeBytes code s.pc (applyHostWrites cells s.mem) }

/-- What one step leaves, seen through `f`; nothing when it does not complete. -/
def after {α : Type} (s : State) (f : State → α) : Option α :=
  match step s with
  | .next t => some (f t)
  | .fault _ => none
  | .refused _ => none

/-- What one step reports as a fault and leaves. -/
def faultOf (s : State) : Option (Byte × State) :=
  match step s with
  | .next _ => none
  | .fault (.invalidOpcode b t) => some (b, t)
  | .refused _ => none

theorem step_of_faultOf {s t : State} {b : Byte} (h : faultOf s = some (b, t)) : step s = .fault (.invalidOpcode b t) := by
  unfold faultOf at h
  split at h
  · cases h
  · cases h; assumption
  · cases h

theorem test_lda_T41_02 :
    after (withBytes [0xA9, 0x80] [] start) (fun t => (t.a, t.pc, t.p.n)) =
      some (0x80#8, 0x0202#16, true) := by
  decide

theorem test_lda_T41_04 :
    after (withBytes [0xB5, 0xFF] [(0x0001, 0xAB), (0x0101, 0xCD)] { start with x := 0x02 })
      (fun t => (t.a, t.pc, t.p.n)) =
      some (0xAB#8, 0x0202#16, true) := by
  decide

theorem test_ldx_T41_12 :
    after (withBytes [0xA2, 0xFF] [] start) (fun t => (t.x, t.pc, t.p.n)) =
      some (0xFF#8, 0x0202#16, true) := by
  decide

theorem test_ldx_T41_13 :
    after (withBytes [0xB6, 0xF0] [(0x0010, 0x00), (0x0110, 0x55)] { start with y := 0x20 })
      (fun t => (t.pc, t.p.z)) =
      some (0x0202#16, true) := by
  decide

theorem test_ldy_T41_15 :
    after (withBytes [0xA0, 0x00] [] { start with y := 0x09 }) (fun t => (t.y, t.pc, t.p.z)) =
      some (0x00#8, 0x0202#16, true) := by
  decide

theorem test_ldy_T41_16 :
    after (withBytes [0xBC, 0x00, 0x04] [(0x0410, 0x81)] { start with x := 0x10 }) (fun t => (t.y, t.pc, t.p.n)) =
      some (0x81#8, 0x0203#16, true) := by
  decide

theorem test_sta_T41_20 :
    after (withBytes [0x81, 0x20] [(0x001F, 0x00), (0x0020, 0x05)] { start with a := 0x42, x := 0xFF })
      (fun t => (t.pc, peek t 0x0500)) =
      some (0x0202#16, 0x42#8) := by
  decide

theorem test_stx_T41_21 :
    after (withBytes [0x96, 0xFF] [] { start with x := 0x33, y := 0x01 }) (fun t => (t.pc, peek t 0x0000)) =
      some (0x0202#16, 0x33#8) := by
  decide

theorem test_sty_T41_22 :
    after (withBytes [0x94, 0x80] [] { start with y := 0x44, x := 0x80 }) (fun t => (t.pc, peek t 0x0000)) =
      some (0x0202#16, 0x44#8) := by
  decide

theorem test_tax_T41_24 :
    after (withBytes [0xAA] [] { start with a := 0x80 }) (fun t => (t.x, t.pc, t.p.n)) =
      some (0x80#8, 0x0201#16, true) := by
  decide

theorem test_tay_T41_25 :
    after (withBytes [0xA8] [] { start with a := 0x00, y := 0x07 }) (fun t => (t.y, t.pc, t.p.z)) =
      some (0x00#8, 0x0201#16, true) := by
  decide

theorem test_txa_T41_26 :
    after (withBytes [0x8A] [] { start with x := 0x7F, a := 0x80, p := { start.p with n := true } })
      (fun t => (t.a, t.pc, t.p.n)) =
      some (0x7F#8, 0x0201#16, false) := by
  decide

theorem test_tya_T41_27 :
    after (withBytes [0x98] [] { start with y := 0xFF }) (fun t => (t.a, t.pc, t.p.n)) =
      some (0xFF#8, 0x0201#16, true) := by
  decide

theorem test_tsx_T41_29 :
    after (withBytes [0xBA] [] { start with sp := 0xFD }) (fun t => (t.x, t.pc, t.p.n)) =
      some (0xFD#8, 0x0201#16, true) := by
  decide

theorem test_txs_T41_30 :
    after (withBytes [0x9A] [] { start with x := 0x00, p := { start.p with n := true, z := false } })
      (fun t => (t.sp, t.pc)) =
      some (0x00#8, 0x0201#16) := by
  decide

theorem test_and_T42_03 :
    after (withBytes [0x35, 0x10] [(0x0011, 0x80)] { start with a := 0x81, x := 0x01 })
      (fun t => (t.a, t.pc, t.p.n)) =
      some (0x80#8, 0x0202#16, true) := by
  decide

theorem test_ora_T42_04 :
    after (withBytes [0x09, 0x80] [] { start with a := 0x0F }) (fun t => (t.a, t.pc, t.p.n)) =
      some (0x8F#8, 0x0202#16, true) := by
  decide

theorem test_eor_T42_07 :
    after (withBytes [0x51, 0x10] [(0x0010, 0x00), (0x0011, 0x04), (0x0402, 0xF0)]
      { start with a := 0x0F, y := 0x02 })
      (fun t => (t.a, t.pc, t.p.n)) =
      some (0xFF#8, 0x0202#16, true) := by
  decide

theorem test_bit_T42_09 :
    after (withBytes [0x24, 0x10] [(0x0010, 0xC0)] { start with a := 0x00 }) (fun t => (t.pc, t.p.n, t.p.v, t.p.z)) =
      some (0x0202#16, true, true, true) := by
  decide

theorem test_bit_T42_11 :
    after (withBytes [0x24, 0x10] [(0x0010, 0x80)] { start with a := 0x80, p := { start.p with c := true } })
      (fun t => (t.pc, t.p.n)) =
      some (0x0202#16, true) := by
  decide

theorem test_inc_T42_12 :
    after (withBytes [0xE6, 0x10] [(0x0010, 0xFF)] { start with p := { start.p with c := true } })
      (fun t => (t.pc, peek t 0x0010, t.p.z)) =
      some (0x0202#16, 0x00#8, true) := by
  decide

theorem test_inc_T42_14 :
    after (withBytes [0xFE, 0xFF, 0x02] [(0x0300, 0x00)] { start with x := 0x01 }) (fun t => (t.pc, peek t 0x0300)) =
      some (0x0203#16, 0x01#8) := by
  decide

theorem test_dec_T42_15 :
    after (withBytes [0xCE, 0x00, 0x03] [(0x0300, 0x00)] start) (fun t => (t.pc, peek t 0x0300, t.p.n)) =
      some (0x0203#16, 0xFF#8, true) := by
  decide

theorem test_dec_T42_16 :
    after (withBytes [0xD6, 0x10] [(0x0000, 0x01)] { start with x := 0xF0 }) (fun t => (t.pc, peek t 0x0000, t.p.z)) =
      some (0x0202#16, 0x00#8, true) := by
  decide

theorem test_inx_T42_17 :
    after (withBytes [0xE8] [] { start with x := 0xFF, p := { start.p with c := false } })
      (fun t => (t.x, t.pc, t.p.z)) =
      some (0x00#8, 0x0201#16, true) := by
  decide

theorem test_iny_T42_19 :
    after (withBytes [0xC8] [] { start with y := 0x00 }) (fun t => (t.y, t.pc)) =
      some (0x01#8, 0x0201#16) := by
  decide

theorem test_dex_T42_20 :
    after (withBytes [0xCA] [] { start with x := 0x00 }) (fun t => (t.x, t.pc, t.p.n)) =
      some (0xFF#8, 0x0201#16, true) := by
  decide

theorem test_dey_T42_22 :
    after (withBytes [0x88] [] { start with y := 0x80 }) (fun t => (t.y, t.pc)) =
      some (0x7F#8, 0x0201#16) := by
  decide

theorem test_adc_T43_03 :
    after (withBytes [0x69, 0x90] [] { start with a := 0xD0, p := { start.p with c := false } })
      (fun t => (t.a, t.pc, t.p.v, t.p.c)) =
      some (0x60#8, 0x0202#16, true, true) := by
  decide

theorem test_adc_T43_19 :
    after (withBytes [0x69, 0x46] [] { start with a := 0x58, p := { start.p with c := true, d := true } })
      (fun t => (t.a, t.pc, t.p.v)) =
      some (0x05#8, 0x0202#16, true) := by
  decide

theorem test_sbc_T43_10 :
    after (withBytes [0xE9, 0xB0] [] { start with a := 0x50, p := { start.p with c := true } })
      (fun t => (t.a, t.pc, t.p.n, t.p.v, t.p.c)) =
      some (0xA0#8, 0x0202#16, true, true, false) := by
  decide

theorem test_sbc_T43_34 :
    after (withBytes [0xE9, 0x21] [] { start with a := 0x12, p := { start.p with c := true, d := true } })
      (fun t => (t.a, t.pc, t.p.n, t.p.c)) =
      some (0x91#8, 0x0202#16, true, false) := by
  decide

theorem test_asl_T44_02 :
    after (withBytes [0x06, 0x10] [(0x0010, 0x80)] { start with p := { start.p with c := true } })
      (fun t => (t.pc, peek t 0x0010, t.p.z)) =
      some (0x0202#16, 0x00#8, true) := by
  decide

theorem test_lsr_T44_05 :
    after (withBytes [0x4E, 0x00, 0x03] [(0x0300, 0xFF)] { start with p := { start.p with n := true } })
      (fun t => (t.pc, peek t 0x0300, t.p.n, t.p.c)) =
      some (0x0203#16, 0x7F#8, false, true) := by
  decide

theorem test_rol_T44_08 :
    after (withBytes [0x36, 0x10] [(0x0011, 0x7F)] { start with x := 0x01, p := { start.p with c := true } })
      (fun t => (t.pc, peek t 0x0011, t.p.n, t.p.c)) =
      some (0x0202#16, 0xFF#8, true, false) := by
  decide

theorem test_ror_T44_11 :
    after (withBytes [0x7E, 0x00, 0x03] [(0x03FF, 0x03)] { start with x := 0xFF, p := { start.p with c := false } })
      (fun t => (t.pc, peek t 0x03FF, t.p.c)) =
      some (0x0203#16, 0x01#8, true) := by
  decide

theorem test_asl_T44_01 :
    after (withBytes [0x0A] [] { start with a := 0x81 }) (fun t => (t.a, t.pc, t.p.c)) =
      some (0x02#8, 0x0201#16, true) := by
  decide

theorem test_lsr_T44_04 :
    after (withBytes [0x4A] [] { start with a := 0x01 }) (fun t => (t.a, t.pc, t.p.z, t.p.c)) =
      some (0x00#8, 0x0201#16, true, true) := by
  decide

theorem test_rol_T44_06 :
    after (withBytes [0x2A] [] { start with a := 0x80, p := { start.p with c := true } }) (fun t => (t.a, t.pc)) =
      some (0x01#8, 0x0201#16) := by
  decide

theorem test_ror_T44_09 :
    after (withBytes [0x6A] [] { start with a := 0x01, p := { start.p with c := true } })
      (fun t => (t.a, t.pc, t.p.n)) =
      some (0x80#8, 0x0201#16, true) := by
  decide

theorem test_cmp_T45_01 :
    after (withBytes [0xC9, 0x41] [] { start with a := 0x40 }) (fun t => (t.pc, t.p.n)) =
      some (0x0202#16, true) := by
  decide

theorem test_cmp_T45_06 :
    after (withBytes [0xC5, 0x10] [(0x0010, 0x09)]
      { start with a := 0x10, p := { start.p with d := true, v := true, c := false } })
      (fun t => (t.pc, t.p.c)) =
      some (0x0202#16, true) := by
  decide

theorem test_cpx_T45_08 :
    after (withBytes [0xEC, 0x00, 0x03] [(0x0300, 0xFF)] { start with x := 0x00 }) (fun t => (t.pc)) =
      some (0x0203#16) := by
  decide

theorem test_cpy_T45_09 :
    after (withBytes [0xC0, 0x03] [] { start with y := 0x05 }) (fun t => (t.pc, t.p.c)) =
      some (0x0202#16, true) := by
  decide

theorem test_bcc_T46_01 :
    after (withBytes [0x90, 0x04] [] { start with p := { start.p with c := false } }) (fun t => (t.pc)) =
      some (0x0206#16) := by
  decide

theorem test_bcs_T46_03 :
    after (withBytes [0xB0, 0xFC] [] { start with p := { start.p with c := true } }) (fun t => (t.pc)) =
      some (0x01FE#16) := by
  decide

theorem test_beq_T46_05 :
    after (withBytes [0xF0, 0xFE] [] { start with pc := 0x1000, p := { start.p with z := true } }) (fun t => (t.pc)) =
      some (0x1000#16) := by
  decide

theorem test_bne_T46_07 :
    after (withBytes [0xD0, 0xF9] [] { start with pc := 0x0210, p := { start.p with z := false } })
      (fun t => (t.pc)) =
      some (0x020B#16) := by
  decide

theorem test_bmi_T46_09 :
    after (withBytes [0x30, 0x7F] [] { start with p := { start.p with n := true } }) (fun t => (t.pc)) =
      some (0x0281#16) := by
  decide

theorem test_bpl_T46_11 :
    after (withBytes [0x10, 0x80] [] { start with p := { start.p with n := false } }) (fun t => (t.pc)) =
      some (0x0182#16) := by
  decide

theorem test_bvc_T46_13 :
    after (withBytes [0x50, 0x05] [] { start with pc := 0xFFFD, p := { start.p with v := false } })
      (fun t => (t.pc)) =
      some (0x0004#16) := by
  decide

theorem test_bvs_T46_15 :
    after (withBytes [0x70, 0xFB] [] { start with pc := 0x0001, p := { start.p with v := true } }) (fun t => (t.pc)) =
      some (0xFFFE#16) := by
  decide

theorem test_beq_T46_06 :
    after (withBytes [0xF0, 0xFE] [] { start with pc := 0x1000, p := { start.p with z := false } })
      (fun t => (t.pc)) =
      some (0x1002#16) := by
  decide

theorem test_jmp_T47_02 :
    after (withBytes [0x6C, 0x00, 0x03] [(0x0300, 0x78), (0x0301, 0x56)] start) (fun t => (t.pc)) =
      some (0x5678#16) := by
  decide

theorem test_jmp_T47_03 :
    after (withBytes [0x6C, 0xFF, 0x02] [(0x0200, 0x34), (0x02FF, 0x00), (0x0300, 0x12)] { start with pc := 0x0400 })
      (fun t => (t.pc)) =
      some (0x3400#16) := by
  decide

theorem test_jsr_T47_06 :
    after (withBytes [0x20, 0x00, 0x20] [] { start with pc := 0x1000, sp := 0x00 })
      (fun t => (t.sp, t.pc, peek t 0x0100, peek t 0x01FF)) =
      some (0xFE#8, 0x2000#16, 0x10#8, 0x02#8) := by
  decide

theorem test_jsr_T47_07 :
    after (withBytes [0x20, 0x34, 0x12] [] { start with pc := 0xFFFE })
      (fun t => (t.sp, t.pc, peek t 0x01FF, peek t 0x01FE)) =
      some (0xFD#8, 0x1234#16, 0x00#8, 0x00#8) := by
  decide

theorem test_rts_T47_08 :
    after (withBytes [0x60] [(0x01FE, 0x02), (0x01FF, 0x10)] { start with sp := 0xFD, pc := 0x2000 })
      (fun t => (t.sp, t.pc)) =
      some (0xFF#8, 0x1003#16) := by
  decide

theorem test_rts_T47_10 :
    after (withBytes [0x60] [(0x0100, 0x41), (0x0101, 0x03)] { start with sp := 0xFF, pc := 0x2000 })
      (fun t => (t.sp, t.pc)) =
      some (0x01#8, 0x0342#16) := by
  decide

theorem test_pha_T48_02 :
    after (withBytes [0x48] [] { start with a := 0x00, sp := 0x00, p := { start.p with n := true } })
      (fun t => (t.sp, t.pc, peek t 0x0100)) =
      some (0xFF#8, 0x0201#16, 0x00#8) := by
  decide

theorem test_php_T48_03 :
    after (withBytes [0x08] [] { start with p := { start.p with i := true, z := true, c := true } })
      (fun t => (t.sp, t.pc, peek t 0x01FF)) =
      some (0xFE#8, 0x0201#16, 0x37#8) := by
  decide

theorem test_pla_T48_07 :
    after (withBytes [0x68] [(0x0100, 0x80)] { start with sp := 0xFF }) (fun t => (t.a, t.sp, t.pc, t.p.n)) =
      some (0x80#8, 0x00#8, 0x0201#16, true) := by
  decide

theorem test_plp_T48_09 :
    after (withBytes [0x28] [(0x01FF, 0xFF)] { start with sp := 0xFE })
      (fun t => (t.sp, t.pc, t.p.n, t.p.v, t.p.b, t.p.d)) =
      some (0xFF#8, 0x0201#16, true, true, true, true) := by
  decide

theorem test_brk_T49_02 :
    after (withBytes [0x00] [(0xFFFA, 0x00), (0xFFFB, 0xD0), (0xFFFC, 0x00), (0xFFFD, 0xE0), (0xFFFE, 0x00), (0xFFFF, 0xC0)]
      { start with pc := 0x0300, sp := 0x01, p := { start.p with i := true, d := true, c := true } })
      (fun t => (t.sp, t.pc, peek t 0x0101)) =
      some (0xFE#8, 0xC000#16, 0x03#8) := by
  decide

theorem test_rti_T49_05 :
    after (withBytes [0x40] [(0x01FD, 0xCB), (0x01FE, 0x34), (0x01FF, 0x12)]
      { start with sp := 0xFC, pc := 0xC000, p := { start.p with i := true } })
      (fun t => (t.sp, t.pc, t.p.n, t.p.v, t.p.d, t.p.i)) =
      some (0xFF#8, 0x1234#16, true, true, true, false) := by
  decide

theorem test_clc_T49_06 :
    after (withBytes [0x18] []
      { start with p := { start.p with c := true, n := true, v := true, d := true, i := true, z := true } })
      (fun t => (t.pc, t.p.c)) =
      some (0x0201#16, false) := by
  decide

theorem test_cld_T49_07 :
    after (withBytes [0xD8] [] { start with p := { start.p with d := true } }) (fun t => (t.pc, t.p.d)) =
      some (0x0201#16, false) := by
  decide

theorem test_cli_T49_08 :
    after (withBytes [0x58] [] { start with p := { start.p with i := true } }) (fun t => (t.pc, t.p.i)) =
      some (0x0201#16, false) := by
  decide

theorem test_clv_T49_09 :
    after (withBytes [0xB8] [] { start with p := { start.p with v := true } }) (fun t => (t.pc, t.p.v)) =
      some (0x0201#16, false) := by
  decide

theorem test_sec_T49_10 :
    after (withBytes [0x38] [] start) (fun t => (t.pc, t.p.c)) =
      some (0x0201#16, true) := by
  decide

theorem test_sed_T49_11 :
    after (withBytes [0xF8] [] start) (fun t => (t.pc, t.p.d)) =
      some (0x0201#16, true) := by
  decide

theorem test_sei_T49_12 :
    after (withBytes [0x78] [] start) (fun t => (t.pc, t.p.i)) =
      some (0x0201#16, true) := by
  decide

theorem test_nop_T49_14 :
    after (withBytes [0xEA] [] start) (fun t => (t.pc)) =
      some (0x0201#16) := by
  decide

theorem test_irq_entry_T60_04 :
    after (withBytes [0xEA] [(0xFFFA, 0x00), (0xFFFB, 0xD0), (0xFFFC, 0x00), (0xFFFD, 0xE0), (0xFFFE, 0x00), (0xFFFF, 0xC0)]
      { start with pc := 0x0234, p := { start.p with n := true, c := true }, inputs := [⟨false, false, true, []⟩] })
      (fun t => (t.sp, t.pc, peek t 0x01FF, t.p.i)) =
      some (0xFC#8, 0xC000#16, 0x02#8, true) := by
  decide

theorem test_nmi_entry_T60_06 :
    after (withBytes [0xEA] [(0xFFFA, 0x00), (0xFFFB, 0xD0), (0xFFFC, 0x00), (0xFFFD, 0xE0), (0xFFFE, 0x00), (0xFFFF, 0xC0)]
      { start with pc := 0x0234, p := { start.p with i := true, d := true, b := true }, inputs := [⟨false, true, false, []⟩] })
      (fun t => (t.sp, t.pc, peek t 0x01FF)) =
      some (0xFC#8, 0xD000#16, 0x02#8) := by
  decide

theorem test_reset_T70_01 :
    after (withBytes [0xEA] [(0xFFFA, 0x00), (0xFFFB, 0xD0), (0xFFFC, 0x00), (0xFFFD, 0xE0), (0xFFFE, 0x00), (0xFFFF, 0xC0)]
      { start with a := 0x11, x := 0x22, y := 0x33, sp := 0x44, pc := 0x5566, p := { start.p with n := true, v := true, d := true, z := true, c := true }, inputs := [⟨true, false, false, []⟩] })
      (fun t => (t.pc, t.p.i)) =
      some (0xE000#16, true) := by
  decide

theorem test_undefined_opcode_T60_01 :
    faultOf (withBytes [0x02, 0xFF] [] { start with a := 0x11, x := 0x22 }) =
      some (0x02,
        { withBytes [0x02, 0xFF] [] { start with a := 0x11, x := 0x22 } with pc := 0x0201, bus := [.read 0x0200 0x02] }) := by
  decide

theorem test_accesses_of_indirect_indexed_store_T41_19 :
    after (withBytes [0x91, 0x20] [(0x0020, 0x01), (0x0021, 0x30)] { start with a := 0x42, y := 0xFF }) (fun t => t.bus) =
      some [.read 0x0200 0x91, .read 0x0201 0x20, .read 0x0020 0x01, .read 0x0021 0x30, .write 0x3100 0x42] := by
  decide

theorem test_fetch_word_runs_first : after (State.reset.withFetchWord 16 0x0509) (fun t => (t.a, t.pc)) = some (0x05#8, 0x0002#16) := by
  decide

theorem test_cycles_of_a_crossing_branch : -- R285: 2, one more when taken, one more into another page
    after (withBytes [0xD0, 0x7F] [] { start with pc := 0x02F0 }) (fun t => t.cycles) = some (some 4) := by
  decide

/-! The environment (R6, R51, R52): a device answers an access, a region discards a write, a table replaces a figure. -/

theorem test_device_answers_a_read :
    after (withBytes [0xAD, 0x00, 0xD0] [(0xD000, 0x11), (0xD001, 0x22)]
        { start with responses := [.ram, .ram, .ram, .device 0x80 [(0xD001, 0x00)]] })
        (fun t => (t.a, t.p.n, peek t 0xD000, peek t 0xD001, t.responses.length)) =
      some (0x80#8, true, 0x11#8, 0x00#8, 0) := by
  decide

theorem test_region_discards_a_write :
    after (withBytes [0x8D, 0x00, 0xE0] [(0xE000, 0x55)]
        { start with a := 0x42, responses := [.ram, .ram, .ram, .device 0x00 []] })
        (fun t => (peek t 0xE000, t.bus.getLast?)) = some (0x55#8, some (.write 0xE000 0x42)) := by
  decide

theorem test_cycle_table_replaces_a_figure :
    after (withBytes [0xEA] [] { start with cycleTable := ⟨[(0xEA, ⟨9, false⟩)], 7, 7⟩ }) (fun t => t.cycles) = some (some 9) := by
  decide

/-! Witnesses: for every obligation with hypotheses, states and operands that meet them, at values where its clauses meet. -/

theorem witness_EncodeOfDecodeIsTheBytes : decode [0xFE#8, 0xFF#8, 0xFF#8] = .instr (.incAbx 0xFFFF) [] := by decide

theorem witness_EachPairHasExactlyOneOpcode_same :
    (Instr.ldaImm 0x00).opcode = (Instr.ldaImm 0xFF).opcode ∧ (Instr.ldaImm 0x00).descriptor = (Instr.ldaImm 0xFF).descriptor := by
  decide

theorem witness_EachPairHasExactlyOneOpcode_listed :
    (Descriptor.mk .ldx .zpy).wellFormed = true ∧ (Instr.ldxZpy 0x10).descriptor = ⟨.ldx, .zpy⟩ := by decide

theorem witness_UndefinedOpcodesFault_nibble : (0xFF#8).toNat % 16 ∈ [3, 7, 0xB, 0xF] ∧ (0xFF#8).toNat ∈ undefinedOpcodes := by
  decide

/-- A state at an undefined byte at the last address. -/
def atUndefined : State := withBytes [0xFF] [] { start with pc := 0xFFFF }

theorem witness_UndefinedOpcodesFault :
    RunsInstruction atUndefined ∧ (opcodeByte atUndefined).toNat ∈ undefinedOpcodes :=
  ⟨rfl, by decide⟩

theorem witness_InvalidOpcodeAdvancesPcOnly :
    RunsInstruction atUndefined ∧ (dispatchTable (opcodeByte atUndefined)).isNone = true :=
  ⟨rfl, by decide⟩

/-- A state before a JSR whose bytes run across the top of memory, with host writes and a masked irq at the boundary. -/
def atJsr : State :=
  { withBytes [0x20] [] { start with pc := 0xFFFE, p := { start.p with i := true } } with
    inputs := [⟨false, false, true, [(0xFFFF, 0x34), (0x0000, 0x12)]⟩]
    responses := [.ram, .ram] }

theorem witness_StepRunsTheDecodedInstruction_ram :
    RunsInstruction atJsr ∧ (∀ r ∈ atJsr.responses.take 3, r = .ram) ∧
    decode (bytesAtPc (beginTransition atJsr)) = .instr (.jsr 0x1234) [] := ⟨rfl, by decide, by decide⟩

/-- `atJsr`, with a device that answers the high operand byte. -/
def atJsrWithDevice : State := { atJsr with responses := [.ram, .ram, .device 0x56 []] }

theorem witness_StepRunsTheDecodedInstruction_device :
    RunsInstruction atJsrWithDevice ∧ decode [0x20#8, 0x34#8, 0x56#8] = .instr (.jsr 0x5634) [] ∧
    (portReads (fetchAddresses atJsrWithDevice 3) (beginTransition atJsrWithDevice)).1 = [0x20#8, 0x34#8, 0x56#8] :=
  ⟨rfl, by decide, by decide⟩

/-- A state with one boundary presented. -/
def atBoundary (reset nmi irq iFlag : Bool) : State :=
  { withBytes [0xEA] [(0xFFFA, 0x01), (0xFFFC, 0x02), (0xFFFE, 0x03)]
      { start with pc := 0x0234, sp := 0x01, p := { start.p with i := iFlag } } with
    inputs := [⟨reset, nmi, irq, []⟩] }

theorem witness_BoundaryChoosesOneTransition :
    (currentBoundary (atBoundary true true true false)).reset = true ∧
    ((currentBoundary (atBoundary false true true true)).reset = false ∧
      (currentBoundary (atBoundary false true true true)).nmi = true) ∧
    ((currentBoundary (atBoundary false false true false)).nmi = false ∧
      (currentBoundary (atBoundary false false true false)).irq = true ∧ (atBoundary false false true false).p.i = false) ∧
    ((currentBoundary (atBoundary false false true true)).irq = true ∧ (atBoundary false false true true).p.i = true) ∧
    (currentBoundary (atBoundary false false false false)).irq = false := by decide

theorem witness_ResetTransitionSetsIAndLoadsPc : (currentBoundary (atBoundary true false false true)).reset = true := rfl

theorem witness_InterruptEntryPushesAndVectors :
    chooseTransition (currentBoundary (atBoundary false true true true)) (atBoundary false true true true).p.i = .nmi ∧
    chooseTransition (currentBoundary (atBoundary false false true false)) (atBoundary false false true false).p.i = .irq := by
  decide

/-- What InvalidOpcode leaves of `atUndefined`. -/
def pastUndefined : State := { atUndefined with pc := 0x0000, bus := [.read 0xFFFF 0xFF] }

theorem witness_HostMayStepOnAfterAFault :
    step atUndefined = .fault (.invalidOpcode 0xFF pastUndefined) ∧ RunsInstruction pastUndefined :=
  ⟨step_of_faultOf (by decide), rfl⟩

theorem witness_EveryStepKeepsMemoryCanonical_next : start.Inv ∧ (after start (fun _ => ())).isSome = true := ⟨rfl, by decide⟩

theorem witness_EveryStepKeepsMemoryCanonical_fault :
    atUndefined.Inv ∧ step atUndefined = .fault (.invalidOpcode 0xFF pastUndefined) :=
  ⟨rfl, step_of_faultOf (by decide)⟩

theorem witness_ReachableStatesAreCanonical :
    State.reset.Initial ∧ ∃ t, stepOn State.reset = some t ∧ Reachable State.reset t :=
  ⟨⟨rfl, rfl, rfl⟩, _, rfl, .step .start rfl⟩

theorem witness_DirectEffectiveAddresses_member :
    MemOperand.rel 0x80#8 ∈ [MemOperand.zp 0x00#8, .zpx 0x00#8, .zpy 0x00#8, .abs 0xFFFF#16, .abx 0xFFFF#16, .aby 0xFFFF#16,
      .rel 0x80#8] := by decide

theorem witness_IndirectEffectiveAddresses_wrap :
    (0x00FF#16).toNat = ((0xFE#8).toNat + ({ start with x := 0x01 } : State).x.toNat) % 256 ∧
    (0x0000#16).toNat = ((0xFE#8).toNat + ({ start with x := 0x01 } : State).x.toNat + 1) % 256 ∧
    (0x00FF#16).toNat = (0xFF#8).toNat ∧ (0x0000#16).toNat = ((0xFF#8).toNat + 1) % 256 := by decide

theorem witness_MemoryPortIsAnsweredByTheEnvironment :
    ({ start with responses := [.ram] } : State).responses = .ram :: [] ∧
    ({ start with responses := [.device 0x80 [(0xFFFF, 0x01)], .ram] } : State).responses =
      .device 0x80 [(0xFFFF, 0x01)] :: [.ram] ∧
    ({ start with responses := [.ram] } : State).Inv ∧ PlainRam { start with responses := [.ram] } :=
  ⟨rfl, rfl, rfl, fun _ h => List.mem_singleton.mp h⟩

theorem witness_LoadsWriteRegisterAndSetNZ :
    (Instr.ldaIzy 0xFF).operation = .lda ∧ (Instr.ldxZpy 0xFF).operation = .ldx ∧ (Instr.ldyImm 0x00).operation = .ldy := by
  decide

theorem witness_StoresWriteOneByte :
    (Instr.staIzx 0xFF).operation = .sta ∧ (Instr.stxZpy 0xFF).operation = .stx ∧ (Instr.styAbs 0xFFFF).operation = .sty := by
  decide

theorem witness_TxsWritesNoFlag :
    exec .pha start = .next (push8 0x00 start) ∧ Instr.pha.operation ≠ .txs := ⟨rfl, by decide⟩

theorem witness_LogicalOperationsOnA :
    (Instr.andImm 0x00).operation = .and ∧ (Instr.oraAby 0xFFFF).operation = .ora ∧ (Instr.eorIzy 0xFF).operation = .eor := by
  decide

theorem witness_BitTestsMemory : (Instr.bitZp 0x00).operation = .bit ∧ (Instr.bitAbs 0xFFFF).operation = .bit := by decide

theorem witness_IncDecMemoryByOne : (Instr.incAbx 0xFFFF).operation = .inc ∧ (Instr.decZp 0xFF).operation = .dec := by decide

theorem witness_AdcAddsByDecimalFlag : (Instr.adcImm 0xFF).operation = .adc ∧ (Instr.adcIzx 0x00).operation = .adc := by decide

theorem witness_SbcSubtractsByDecimalFlag : (Instr.sbcImm 0xFF).operation = .sbc ∧ (Instr.sbcIzy 0x00).operation = .sbc := by decide

theorem witness_DecimalAdditionFollowsTheProcedure : -- the low digit sum is $0A and the high sum $A0, the first corrected ones
    (0x10 : Nat) = (if 0x0A ≤ ((0x95#8) &&& 0x0F#8).toNat + ((0x05#8) &&& 0x0F#8).toNat + false.toNat then
        (((0x95#8) &&& 0x0F#8).toNat + ((0x05#8) &&& 0x0F#8).toNat + false.toNat + 0x06) % 16 + 0x10
      else ((0x95#8) &&& 0x0F#8).toNat + ((0x05#8) &&& 0x0F#8).toNat + false.toNat) ∧
    (0x100 : Nat) = (if 0xA0 ≤ ((0x95#8) &&& 0xF0#8).toNat + ((0x05#8) &&& 0xF0#8).toNat + 0x10 then
        ((0x95#8) &&& 0xF0#8).toNat + ((0x05#8) &&& 0xF0#8).toNat + 0x10 + 0x60
      else ((0x95#8) &&& 0xF0#8).toNat + ((0x05#8) &&& 0xF0#8).toNat + 0x10) ∧
    (addDec (bcd 99) (bcd 99) true).r = bcd 99 := by decide

theorem witness_DecimalSubtractionFollowsTheProcedure : -- 00 - 01: both digits borrow
    (-1 : Int) = (((0x00#8) &&& 0x0F#8).toNat : Int) - ((0x01#8) &&& 0x0F#8).toNat + true.toNat - 1 ∧
    (-7 : Int) = (if (-1 : Int) < 0 then ((-1 : Int) - 0x06) % 16 - 0x10 else -1) ∧
    (-7 : Int) = (((0x00#8) &&& 0xF0#8).toNat : Int) - ((0x01#8) &&& 0xF0#8).toNat + -7 ∧
    (-103 : Int) = (if (-7 : Int) < 0 then (-7 : Int) - 0x60 else -7) ∧
    (subDec 0x00 0x01 true).r = 0x99 ∧ (subDec (bcd 0) (bcd 99) false).r = bcd 0 := by decide

/-- A state with A = $50 and C = 1. -/
def beforeAdc : State := { start with a := 0x50, p := { start.p with c := true } }

/-- After ADC #$50 of it. -/
def afterAdc : State := addWithCarry (.imm 0x50) beforeAdc

theorem witness_AdcThenSbcRestoresA :
    beforeAdc.p.d = false ∧ exec (.adcImm 0x50) beforeAdc = .next afterAdc ∧ afterAdc.a = 0xA1 ∧
    exec (.sbcImm 0x50) { afterAdc with p := { afterAdc.p with c := !beforeAdc.p.c } } =
      .next (subtractWithBorrow (.imm 0x50) { afterAdc with p := { afterAdc.p with c := false } }) :=
  ⟨rfl, rfl, by decide, rfl⟩

theorem witness_ShiftsAndRotatesByOneBit :
    Instr.aslAcc.operation = .asl ∧ (Instr.lsrAbx 0xFFFF).operation = .lsr ∧ Instr.rolAcc.operation = .rol ∧
    (Instr.rorZpx 0xFF).operation = .ror := by decide

theorem witness_ComparesSetCarryZeroNegative :
    (Instr.cmpIzx 0xFF).operation = .cmp ∧ (Instr.cpxAbs 0x0000).operation = .cpx ∧ (Instr.cpyImm 0xFF).operation = .cpy := by
  decide

/-- A state whose stack pointer is about to wrap. -/
def nearWrap : State := { start with sp := 0x00, pc := 0x1003, responses := [.ram] }

theorem nearWrap_plainRam : PlainRam nearWrap := fun _ h => List.mem_singleton.mp h

theorem witness_JsrThenRtsReturnsAfterTheCall :
    nearWrap.Inv ∧ PlainRam nearWrap ∧ exec (.jsr 0x2000) nearWrap = .next (jumpToSubroutine 0x2000 nearWrap) ∧
    exec .rts (jumpToSubroutine 0x2000 nearWrap) = .next (returnFromSubroutine (jumpToSubroutine 0x2000 nearWrap)) :=
  ⟨rfl, nearWrap_plainRam, rfl, rfl⟩

theorem witness_PushAndPullPrimitives :
    (0x00#8).toNat = (({ start with sp := 0xFF } : State).sp.toNat + 1) % 256 ∧ nearWrap.Inv ∧ PlainRam nearWrap :=
  ⟨by decide, rfl, nearWrap_plainRam⟩

theorem witness_StackInstructions :
    (0x30#8) = BitVec.ofNat 8 (128 * start.p.n.toNat + 64 * start.p.v.toNat + 32 + 16 + 8 * start.p.d.toNat +
      4 * start.p.i.toNat + 2 * start.p.z.toNat + start.p.c.toNat) := by decide

theorem witness_EntryFrameLayout :
    nearWrap.Inv ∧ PlainRam nearWrap ∧ exec .brk nearWrap = .next (softwareInterrupt nearWrap) ∧
    exec (.jsr 0x2000) nearWrap = .next (jumpToSubroutine 0x2000 nearWrap) ∧
    0xFFFA#16 ∈ [Config.nmiVector, Config.irqVector] ∧ 0xFFFE#16 ∈ [Config.nmiVector, Config.irqVector] :=
  ⟨rfl, nearWrap_plainRam, rfl, rfl, by decide, by decide⟩

theorem witness_RtiUndoesAnInterruptEntry :
    nearWrap.Inv ∧ PlainRam nearWrap ∧ exec .rti (interruptTransition Config.irqVector nearWrap) =
      .next (returnFromInterrupt (interruptTransition Config.irqVector nearWrap)) := ⟨rfl, nearWrap_plainRam, rfl⟩

theorem witness_StoredBreakFlagIsInvisible :
    dropBreak { start with p := { start.p with b := true } } = dropBreak start ∧
    { start with p := { start.p with b := true } } ≠ start := by decide

theorem witness_OnlyTheseInstructionsChangeAFlag :
    ∃ t, exec .sed start = .next t ∧ t.p.d ≠ start.p.d := ⟨_, rfl, by decide⟩

theorem witness_OnlyTheseInstructionsChangeARegister :
    ∃ t, exec .dex start = .next t ∧ t.x ≠ start.x := ⟨_, rfl, by decide⟩

/-- A state whose next read is answered by a device that changes one byte. -/
def withDevice : State := { start with responses := [.device 0x80 [(0xD001, 0x01)]] }

theorem withDevice_leaves : EnvironmentLeaves 0xFFFF withDevice := by
  simp [EnvironmentLeaves, withDevice, Response.changes]

theorem witness_NonStoringFormsLeaveMemory :
    (∃ t, exec (.ldaAbs 0xFFFF) withDevice = .next t) ∧ Instr.aslAcc.operand = .acc ∧
    (Instr.ldaAbs 0xFFFF).operation ∉ [.sta, .stx, .sty, .inc, .dec, .asl, .lsr, .rol, .ror, .pha, .php, .jsr, .brk] ∧
    EnvironmentLeaves 0xFFFF withDevice := ⟨⟨_, rfl⟩, rfl, by decide, withDevice_leaves⟩

theorem witness_StoringFormsWriteOnlyTheirTarget :
    (∃ t, exec (.staAby 0xFFFF) start = .next t) ∧ (Instr.staAby 0xFFFF).operand = .mem (.aby 0xFFFF) ∧
    0x0000#16 ≠ (resolve (.aby 0xFFFF) start).ea ∧ (∃ t, exec .php start = .next t) ∧ 0x01FE#16 ≠ stackAddress start.sp ∧
    (∃ t, exec (.jsr 0x0000) nearWrap = .next t) ∧
    0x01FE#16 ∉ [stackAddress nearWrap.sp, stackAddress (nearWrap.sp - 1#8)] ∧ (∃ t, exec .brk nearWrap = .next t) ∧
    0x01FD#16 ∉ [stackAddress nearWrap.sp, stackAddress (nearWrap.sp - 1#8), stackAddress (nearWrap.sp - 2#8)] ∧
    EnvironmentLeaves 0x0000 start ∧ EnvironmentLeaves 0x01FD nearWrap :=
  ⟨⟨_, rfl⟩, rfl, by decide, ⟨_, rfl⟩, by decide, ⟨_, rfl⟩, by decide, ⟨_, rfl⟩, by decide, by simp [EnvironmentLeaves, start],
    by simp [EnvironmentLeaves, nearWrap, Response.changes]⟩

theorem witness_AccessSequenceOfEveryTransition_instruction :
    (portReads (fetchAddresses atJsr 3) (beginTransition atJsr)).1 = [0x20#8, 0x34#8, 0x12#8] ∧
    after atJsr (fun t => t.bus.map Access.place) =
      some [(false, 0xFFFE#16), (false, 0xFFFF#16), (false, 0x0000#16), (true, 0x01FF#16), (true, 0x01FE#16)] := by decide

theorem witness_AccessSequenceOfEveryTransition_entries :
    chooseTransition (currentBoundary (atBoundary false true false true)) true = .nmi ∧
    (after (atBoundary false true false true) (fun _ => ())).isSome = true ∧
    chooseTransition (currentBoundary (atBoundary true false false true)) true = .reset ∧
    (after (atBoundary true false false true) (fun _ => ())).isSome = true ∧
    step atUndefined = .fault (.invalidOpcode 0xFF pastUndefined) :=
  ⟨by decide, by decide, by decide, by decide, step_of_faultOf (by decide)⟩

theorem witness_EveryCompletedStepReportsCycles :
    conditionOf (Instr.bvs 0x80).operation = some .overflowSet ∧ (Instr.bvs 0x80).operand = .mem (.rel 0x80) ∧
    conditionOf (Instr.ldaAbx 0x00FF).operation = none ∧ start.cycleTable = Config.defaultCycleTable ∧
    after start (fun t => t.cycles) = some (some 7) := by decide

theorem witness_DefaultCycleTableFigures :
    (Instr.ldaIzy 0xFF).operation ∈ [Operation.lda, .and, .ora, .eor, .adc, .sbc, .cmp] ∧
    (Instr.ldxZpy 0xFF).operation ∈ [Operation.ldx, .ldy] ∧ (Instr.bitAbs 0x0000).operation ∈ [Operation.cpx, .cpy, .bit] ∧
    (Instr.staIzy 0xFF).operation ∈ [Operation.sta, .stx, .sty] ∧
    (Instr.rorAcc).operation ∈ [Operation.asl, .lsr, .rol, .ror, .inc, .dec] ∧
    (Instr.php).operation ∈ [Operation.pha, .php] ∧ (Instr.plp).operation ∈ [Operation.pla, .plp] ∧
    (Instr.jmpInd 0xFFFF).operation = .jmp ∧ (Instr.rti).operation ∈ [Operation.jsr, .rts, .rti] ∧
    (Instr.brk).operation = .brk := by decide

theorem witness_DefaultCycleTableFigures_implied :
    (Instr.bvs 0x80).operation ∈ [Operation.clc, .cld, .cli, .clv, .sec, .sed, .sei, .nop, .tax, .tay, .txa, .tya, .tsx, .txs,
      .inx, .iny, .dex, .dey, .bcc, .bcs, .beq, .bne, .bmi, .bpl, .bvc, .bvs] := by decide

/-- CLI, and irq presented at the boundary after it. -/
def beforeCli : State :=
  { withBytes [0x58] [] { start with p := { start.p with i := true } } with inputs := [quietBoundary, ⟨false, false, true, []⟩] }

theorem witness_IrqIsTakenRightAfterCli :
    beforeCli.inputs = [quietBoundary, ⟨false, false, true, []⟩] ∧ opcodeByte beforeCli = 0x58 := by decide

theorem witness_CanonicalMemoriesAreDeterminedByTheirReads : -- two states that differ, over the same memory
    atUndefined.Inv ∧ pastUndefined.Inv ∧ (∀ a : Word, peek atUndefined a = peek pastUndefined a) ∧ atUndefined ≠ pastUndefined :=
  ⟨rfl, rfl, fun _ => rfl, by decide⟩

theorem witness_StoresAreSeenByTheNextFetch :
    start.Inv ∧ PlainRam start ∧ (Instr.staAbs 0x0200).operation = .sta ∧ (resolve (.abs 0x0200) start).ea = start.pc ∧
    exec (.staAbs 0x0200) start = .next (storeFrom .a (.abs 0x0200) start) :=
  ⟨rfl, fun _ h => absurd h (List.not_mem_nil), rfl, rfl, rfl⟩

theorem witness_HostViewOfStatus :
    exec .php start = .next (pushStatus start) ∧ exec .brk start = .next (softwareInterrupt start) := ⟨rfl, rfl⟩

end Sys2Proof.Tests
end

/-! PROOF of O48 (10_state.md R32): every function a step is made of does the same to a state and to that state with the
stored Break flag cleared, but for that flag. -/

namespace Sys2Proof.Machine

/-! Clearing B commutes with what never looks at P. -/

@[simp] theorem dropBreak_a (s : State) : (dropBreak s).a = s.a := rfl
@[simp] theorem dropBreak_x (s : State) : (dropBreak s).x = s.x := rfl
@[simp] theorem dropBreak_pc (s : State) : (dropBreak s).pc = s.pc := rfl
@[simp] theorem dropBreak_cycleTable (s : State) : (dropBreak s).cycleTable = s.cycleTable := rfl
@[simp] theorem reg_dropBreak (s : State) (r : Reg) : (dropBreak s).reg r = s.reg r := by cases r <;> rfl
@[simp] theorem dropBreak_dropBreak (s : State) : dropBreak (dropBreak s) = dropBreak s := rfl
@[simp] theorem dropBreakOutcome_next (s : State) : dropBreakOutcome (.next s) = .next (dropBreak s) := rfl
@[simp] theorem setReg_dropBreak (s : State) (r : Reg) (v : Byte) :
    (dropBreak s).setReg r v = dropBreak (s.setReg r v) := by cases r <;> rfl
@[simp] theorem setPc_dropBreak (s : State) (v : Word) : (dropBreak s).setPc v = dropBreak (s.setPc v) := rfl
@[simp] theorem setCycles_dropBreak (s : State) (v : Option Nat) :
    (dropBreak s).setCycles v = dropBreak (s.setCycles v) := rfl
@[simp] theorem busRead_dropBreak (a : Word) (s : State) :
    busRead a (dropBreak s) = ((busRead a s).1, dropBreak (busRead a s).2) := rfl
@[simp] theorem busWrite_dropBreak (a : Word) (v : Byte) (s : State) :
    busWrite a v (dropBreak s) = dropBreak (busWrite a v s) := rfl
@[simp] theorem fetch8_dropBreak (s : State) : fetch8 (dropBreak s) = ((fetch8 s).1, dropBreak (fetch8 s).2) := rfl
@[simp] theorem fetch16_dropBreak (s : State) : fetch16 (dropBreak s) = ((fetch16 s).1, dropBreak (fetch16 s).2) := rfl
@[simp] theorem push8_dropBreak (v : Byte) (s : State) : push8 v (dropBreak s) = dropBreak (push8 v s) := rfl
@[simp] theorem pull8_dropBreak (s : State) : pull8 (dropBreak s) = ((pull8 s).1, dropBreak (pull8 s).2) := rfl
@[simp] theorem beginTransition_dropBreak (s : State) :
    beginTransition (dropBreak s) = dropBreak (beginTransition s) := rfl
@[simp] theorem currentBoundary_dropBreak (s : State) : currentBoundary (dropBreak s) = currentBoundary s := rfl

/-- A resolver looks at no flag (R100). -/
@[simp] theorem resolve_dropBreak (m : MemOperand) (s : State) :
    resolve m (dropBreak s) = ⟨(resolve m s).ea, (resolve m s).pageCross, dropBreak (resolve m s).state⟩ := by
  cases m <;> rfl

@[simp] theorem readSource_dropBreak (src : Source) (s : State) :
    readSource src (dropBreak s) = ((readSource src s).1, dropBreak (readSource src s).2) := by
  cases src with
  | imm v => rfl
  | mem m => simp [readSource]

/-! What looks at P looks at its other six flags, and hands B on. -/

/-- P with the stored B cleared. -/
def Status.withoutBreak (p : Status) : Status := { p with b := false }

@[simp] theorem Status.withoutBreak_d (p : Status) : p.withoutBreak.d = p.d := rfl
@[simp] theorem Status.withoutBreak_i (p : Status) : p.withoutBreak.i = p.i := rfl
@[simp] theorem Status.withoutBreak_c (p : Status) : p.withoutBreak.c = p.c := rfl
@[simp] theorem dropBreak_p (s : State) : (dropBreak s).p = s.p.withoutBreak := rfl
@[simp] theorem setP_withoutBreak (s : State) (p : Status) :
    (dropBreak s).setP p.withoutBreak = dropBreak (s.setP p) := rfl
@[simp] theorem statusByte_withoutBreak (brk : Bool) (p : Status) :
    statusByte brk p.withoutBreak = statusByte brk p := statusByte_ignores_b brk false p
@[simp] theorem setNZ_withoutBreak (r : Byte) (p : Status) :
    setNZ r p.withoutBreak = (setNZ r p).withoutBreak := rfl
@[simp] theorem bitFlags_withoutBreak (a m : Byte) (p : Status) :
    bitFlags a m p.withoutBreak = (bitFlags a m p).withoutBreak := rfl
@[simp] theorem compareFlags_withoutBreak (r m : Byte) (p : Status) :
    compareFlags r m p.withoutBreak = (compareFlags r m p).withoutBreak := rfl
@[simp] theorem accumulate_dropBreak (r : AluResult) (s : State) :
    accumulate r (dropBreak s) = dropBreak (accumulate r s) := rfl

/-- No branch tests B (R190). -/
@[simp] theorem Condition.holds_withoutBreak (c : Condition) (p : Status) : c.holds p.withoutBreak = c.holds p := by
  cases c <;> rfl

/-- A modifier that gives the same byte with B cleared, and the same flags but for B. -/
def Modifier.IgnoresBreak (f : Modifier) : Prop := ∀ v p, f v p.withoutBreak = ((f v p).1, (f v p).2.withoutBreak)

theorem increment_ignoresBreak : Modifier.IgnoresBreak increment := fun _ _ => rfl
theorem decrement_ignoresBreak : Modifier.IgnoresBreak decrement := fun _ _ => rfl
theorem shiftLeft_ignoresBreak : Modifier.IgnoresBreak shiftLeft := fun _ _ => rfl
theorem shiftRight_ignoresBreak : Modifier.IgnoresBreak shiftRight := fun _ _ => rfl
theorem rotateLeft_ignoresBreak : Modifier.IgnoresBreak rotateLeft := fun _ _ => rfl
theorem rotateRight_ignoresBreak : Modifier.IgnoresBreak rotateRight := fun _ _ => rfl

theorem readModifyWrite_dropBreak {f : Modifier} (hf : f.IgnoresBreak) (pl : Place) (s : State) :
    readModifyWrite f pl (dropBreak s) = dropBreak (readModifyWrite f pl s) := by
  cases pl with
  | acc => simp [readModifyWrite, hf _ _]
  | mem m => simp [readModifyWrite, hf _ _]

theorem stepRegister_dropBreak {f : Modifier} (hf : f.IgnoresBreak) (r : Reg) (s : State) :
    stepRegister f r (dropBreak s) = dropBreak (stepRegister f r s) := by
  simp [stepRegister, hf _ _]

@[simp] theorem takeInterrupt_dropBreak (brk : Bool) (ret vector : Word) (s : State) :
    takeInterrupt brk ret vector (dropBreak s) = dropBreak (takeInterrupt brk ret vector s) := rfl

@[simp] theorem resetSequence_dropBreak (s : State) : resetSequence (dropBreak s) = dropBreak (resetSequence s) := rfl

/-! PLP and RTI take B from the pulled byte, so what they do does not depend on the B they find (R215, R221). -/

theorem pullStatus_dropBreak (s : State) : pullStatus (dropBreak s) = pullStatus s := rfl

theorem returnFromInterrupt_dropBreak (s : State) : returnFromInterrupt (dropBreak s) = returnFromInterrupt s := rfl

/-! Every instruction, every fetch, every step. -/

/-- Every meaning does the same with B cleared, up to B: PLP and RTI overwrite B, and every other meaning hands it on. -/
theorem dropBreak_of_meaning {i : Instr} {f : State → State} (h : Meaning i f) (s : State) :
    dropBreak (f (dropBreak s)) = dropBreak (f s) := by
  cases h with
  | load r src => simp [loadInto]
  | store r m => simp [storeFrom]
  | transfer src dst => simp [transfer]
  | transferXToS => simp [transferXToS]
  | logical g src => simp [logical]
  | bitTest m => simp [bitTest]
  | stepMemory g m _ op =>
    obtain ⟨-, rfl⟩ | ⟨-, rfl⟩ := op
    · simp [readModifyWrite_dropBreak increment_ignoresBreak]
    · simp [readModifyWrite_dropBreak decrement_ignoresBreak]
  | stepRegister g r _ op =>
    obtain ⟨rfl, -⟩ | ⟨rfl, -⟩ := op
    · simp [stepRegister_dropBreak increment_ignoresBreak]
    · simp [stepRegister_dropBreak decrement_ignoresBreak]
  | add src => simp [addWithCarry]
  | subtract src => simp [subtractWithBorrow]
  | shift g pl _ op =>
    obtain ⟨-, rfl⟩ | ⟨-, rfl⟩ | ⟨-, rfl⟩ | ⟨-, rfl⟩ := op
    · simp [readModifyWrite_dropBreak shiftLeft_ignoresBreak]
    · simp [readModifyWrite_dropBreak shiftRight_ignoresBreak]
    · simp [readModifyWrite_dropBreak rotateLeft_ignoresBreak]
    · simp [readModifyWrite_dropBreak rotateRight_ignoresBreak]
  | compare r src => simp [compareRegister]
  | branch c rel8 => simp [branchIf_eq]
  | jump m => simp [jumpTo]
  | jumpToSubroutine addr => simp [jumpToSubroutine]
  | returnFromSubroutine => simp [returnFromSubroutine]
  | pushAccumulator => simp [pushAccumulator]
  | pushStatus => simp [pushStatus]
  | pullAccumulator => simp [pullAccumulator]
  | pullStatus => rw [pullStatus_dropBreak]
  | softwareInterrupt => simp [softwareInterrupt]
  | returnFromInterrupt => rw [returnFromInterrupt_dropBreak]
  | setFlag g _ op =>
    obtain ⟨-, rfl⟩ | ⟨-, rfl⟩ | ⟨-, rfl⟩ | ⟨-, rfl⟩ | ⟨-, rfl⟩ | ⟨-, rfl⟩ | ⟨-, rfl⟩ := op <;> rfl
  | nothing => rfl

/-- An instruction does the same with B cleared, up to B. -/
theorem exec_dropBreak (i : Instr) (s : State) :
    dropBreakOutcome (exec i (dropBreak s)) = dropBreakOutcome (exec i s) := by
  obtain ⟨f, hf, hexec⟩ := exec_meaning i
  simp [hexec, dropBreak_of_meaning hf]

/-- The cycle report tests no B (R283, R285). -/
@[simp] theorem cycleReport_dropBreak (i : Instr) (s : State) : cycleReport i (dropBreak s) = cycleReport i s := by
  have hcross : operandCrosses i.operand (dropBreak s) = operandCrosses i.operand s := by
    cases i.operand <;> simp [operandCrosses]
  simp [cycleReport, hcross]

/-- A cycle report beside an outcome does not depend on the outcome's B. -/
theorem withCycles_congr_dropBreak (n : Nat) {o o' : Host.Outcome State Fault Refusal}
    (h : dropBreakOutcome o = dropBreakOutcome o') :
    dropBreakOutcome (withCycles n o) = dropBreakOutcome (withCycles n o') := by
  have hcycles (u : Host.Outcome State Fault Refusal) :
      dropBreakOutcome (withCycles n u) = withCycles n (dropBreakOutcome u) := by
    rcases u with s | ⟨b, s⟩ | r <;> rfl
  rw [hcycles, hcycles, h]

/-- What a fetch answers, with B cleared in the state it carries. -/
def Fetched.withoutBreak : Fetched → Fetched
  | .instr i s => .instr i (dropBreak s)
  | .invalid b s => .invalid b (dropBreak s)

/-- A fetch looks at no flag (R92). -/
theorem fetchInstruction_dropBreak (s : State) :
    fetchInstruction (dropBreak s) = (fetchInstruction s).withoutBreak := by
  simp only [fetchInstruction, fetch8_dropBreak, fetch16_dropBreak]
  rcases dispatchTable (fetch8 s).1 with _ | i | f | f <;> rfl

/-- An instruction transition does the same with B cleared, up to B, faults included. -/
theorem runInstruction_dropBreak (s : State) :
    dropBreakOutcome (runInstruction (dropBreak s)) = dropBreakOutcome (runInstruction s) := by
  rw [runInstruction, runInstruction, fetchInstruction_dropBreak]
  cases fetchInstruction s with
  | instr i t =>
    simp only [Fetched.withoutBreak, cycleReport_dropBreak]
    exact withCycles_congr_dropBreak _ (exec_dropBreak i t)
  | invalid b t => rfl

/-- A step does the same with B cleared, up to B. -/
theorem step_dropBreak (s : State) : dropBreakOutcome (step (dropBreak s)) = dropBreakOutcome (step s) := by
  simp only [step, beginTransition_dropBreak, currentBoundary_dropBreak, dropBreak_p, Status.withoutBreak_i]
  cases chooseTransition (currentBoundary s) (beginTransition s).p.i with
  | reset => simp [resetTransition]
  | nmi => simp [interruptTransition]
  | irq => simp [interruptTransition]
  | instruction => exact runInstruction_dropBreak (beginTransition s)

/-- Settles O48: both steps are, up to B, the step of the one state they both are with B cleared. -/
theorem storedBreakFlagIsInvisible : Obligations.StoredBreakFlagIsInvisible := by
  intro s t h
  rw [← step_dropBreak s, h, step_dropBreak t]

end Sys2Proof.Machine

/-! PROOF of O49 (10_state.md R31): what each meaning can do to P, said once, then read off flag by flag. -/

namespace Sys2Proof.Machine

/-- The operations that write N and Z and no other flag (R31). -/
def nzOperations : List Operation :=
  [.lda, .ldx, .ldy, .tax, .tay, .txa, .tya, .tsx, .pla, .and, .ora, .eor, .inc, .dec, .inx, .iny, .dex, .dey]

/-- What an operation can do to the flags `p`: the table of R31 by the set of flags written. -/
inductive StatusEffect (op : Operation) (p : Status) : Status → Prop where
  | none : StatusEffect op p p
  | nz (n z : Bool) (names : op ∈ nzOperations) : StatusEffect op p { p with n := n, z := z }
  | nzc (n z c : Bool) (names : op ∈ [.asl, .lsr, .rol, .ror, .cmp, .cpx, .cpy]) :
      StatusEffect op p { p with n := n, z := z, c := c }
  | nvz (n v z : Bool) (names : op ∈ [.bit]) : StatusEffect op p { p with n := n, v := v, z := z }
  | nvzc (n v z c : Bool) (names : op ∈ [.adc, .sbc]) : StatusEffect op p { p with n := n, v := v, z := z, c := c }
  | v (v : Bool) (names : op ∈ [.clv]) : StatusEffect op p { p with v := v }
  | d (d : Bool) (names : op ∈ [.cld, .sed]) : StatusEffect op p { p with d := d }
  | i (i : Bool) (names : op ∈ [.cli, .sei, .brk]) : StatusEffect op p { p with i := i }
  | c (c : Bool) (names : op ∈ [.clc, .sec]) : StatusEffect op p { p with c := c }
  | all (q : Status) (names : op ∈ [.plp, .rti]) : StatusEffect op p q

/-- P as it was is no effect. -/
theorem StatusEffect.of_eq {op : Operation} {p q : Status} (h : q = p) : StatusEffect op p q := h ▸ .none

/-- SetNZ writes N and Z (R30). -/
theorem setNZ_effect {op : Operation} (names : op ∈ nzOperations) (r : Byte) (p : Status) :
    StatusEffect op p (setNZ r p) := .nz _ _ names

/-- A shift writes N, Z and C (R170). -/
theorem shifted_effect {op : Operation} (names : op ∈ [.asl, .lsr, .rol, .ror]) (r : Byte) (out : Bool) (p : Status) :
    StatusEffect op p (shifted r out p).2 := .nzc _ _ _ (List.mem_append_left [Operation.cmp, .cpx, .cpy] names)

/-- The flags after a read-modify-write are those its modifier gives for the operand it read (R101). -/
theorem readModifyWrite_p (f : Modifier) (pl : Place) (s : State) : ∃ v, (readModifyWrite f pl s).p = (f v s.p).2 := by
  cases pl with
  | acc => exact ⟨s.a, rfl⟩
  | mem m => exact ⟨(readSource (.mem m) s).1, by rw [readModifyWrite_mem, State.setP_p]⟩

/-- The first part of a listed pair is one of the first parts. -/
theorem mem_of_pair_mem {α β : Type} {l : List (α × β)} {k : List α} {a : α} {b : β} (h : (a, b) ∈ l)
    (hk : l.map Prod.fst ⊆ k) : a ∈ k := hk (List.mem_map_of_mem (f := Prod.fst) h)

/-- An operation of an effect's list is in a flag's row of R31 that holds the list, whether or not the flag changed. -/
theorem mem_row_of_mem {op : Operation} {l k : List Operation} {changed : Prop} (h : op ∈ l) (hlk : l ⊆ k := by decide) :
    changed → op ∈ k := fun _ => hlk h

/-- Every meaning writes the flags of its row of R31 and no other. -/
theorem statusEffect_of_meaning {i : Instr} {f : State → State} (h : Meaning i f) (s : State) :
    StatusEffect i.operation s.p (f s).p := by
  cases h with
  | load r src op =>
    rw [loadInto_eq]
    exact setNZ_effect (mem_of_pair_mem op (by decide)) _ _
  | store r m => exact .of_eq (by simp [storeFrom])
  | transfer src dst _ op => exact setNZ_effect (mem_of_pair_mem op (by decide)) _ _
  | transferXToS => exact .of_eq (by simp [transferXToS])
  | logical g src _ op =>
    rw [logical_eq]
    refine setNZ_effect ?_ _ _
    obtain ⟨hop, -⟩ | ⟨hop, -⟩ | ⟨hop, -⟩ := op <;> simp [hop, nzOperations]
  | bitTest m op => rw [bitTest_eq]; exact .nvz _ _ _ (by simp [op])
  | stepMemory g m _ op =>
    obtain ⟨v, hv⟩ := readModifyWrite_p g (.mem m) s
    rw [hv]
    obtain ⟨hop, rfl⟩ | ⟨hop, rfl⟩ := op
    · exact setNZ_effect (by simp [hop, nzOperations]) _ _
    · exact setNZ_effect (by simp [hop, nzOperations]) _ _
  | stepRegister g r _ op =>
    obtain ⟨rfl, hop⟩ | ⟨rfl, hop⟩ := op
    · exact setNZ_effect (mem_of_pair_mem hop (by decide)) _ _
    · exact setNZ_effect (mem_of_pair_mem hop (by decide)) _ _
  | add src op => rw [addWithCarry_eq]; exact .nvzc _ _ _ _ (by simp [op])
  | subtract src op => rw [subtractWithBorrow_eq]; exact .nvzc _ _ _ _ (by simp [op])
  | shift g pl _ op =>
    obtain ⟨v, hv⟩ := readModifyWrite_p g pl s
    rw [hv]
    obtain ⟨hop, rfl⟩ | ⟨hop, rfl⟩ | ⟨hop, rfl⟩ | ⟨hop, rfl⟩ := op
    all_goals exact shifted_effect (by simp [hop]) _ _ _
  | compare r src op =>
    rw [compareRegister_eq]
    exact .nzc _ _ _ (mem_of_pair_mem op (by decide))
  | branch c rel8 => exact .of_eq (by simp [branchIf_eq])
  | jump m => exact .of_eq (by simp [jumpTo])
  | jumpToSubroutine addr => exact .of_eq (by simp [jumpToSubroutine])
  | returnFromSubroutine => exact .of_eq (by simp [returnFromSubroutine])
  | pushAccumulator => exact .of_eq (by simp [pushAccumulator])
  | pushStatus => exact .of_eq (by simp [pushStatus])
  | pullAccumulator op => exact setNZ_effect (by simp [op, nzOperations]) (pull8 s).1 s.p
  | pullStatus op => exact .all _ (by simp [op])
  | softwareInterrupt op =>
    rw [softwareInterrupt, takeInterrupt_port]
    exact .i true (by simp [op])
  | returnFromInterrupt op => exact .all _ (by simp [op])
  | setFlag g _ op =>
    obtain ⟨hop, rfl⟩ | ⟨hop, rfl⟩ | ⟨hop, rfl⟩ | ⟨hop, rfl⟩ | ⟨hop, rfl⟩ | ⟨hop, rfl⟩ | ⟨hop, rfl⟩ := op
    · exact .c false (by simp [hop])
    · exact .d false (by simp [hop])
    · exact .i false (by simp [hop])
    · exact .v false (by simp [hop])
    · exact .c true (by simp [hop])
    · exact .d true (by simp [hop])
    · exact .i true (by simp [hop])
  | nothing => exact .none

/-- An instruction writes the flags of its operation's row of R31 and no other. -/
theorem statusEffect_of_exec {i : Instr} {s t : State} (h : exec i s = .next t) :
    StatusEffect i.operation s.p t.p := by
  obtain ⟨f, hf, hexec⟩ := exec_meaning i
  obtain rfl : f s = t := by simpa [hexec] using h
  exact statusEffect_of_meaning hf s

/-- Settles O49: a flag that changed is among the flags the instruction's effect writes. -/
theorem onlyTheseInstructionsChangeAFlag : Obligations.OnlyTheseInstructionsChangeAFlag := by
  intro i s t h
  have heffect := statusEffect_of_exec h
  generalize t.p = q at heffect ⊢
  generalize i.operation = op at heffect ⊢
  cases heffect with
  | none => exact ⟨absurd rfl, absurd rfl, absurd rfl, absurd rfl, absurd rfl, absurd rfl, absurd rfl⟩
  | nz n z names =>
    exact ⟨mem_row_of_mem names, absurd rfl, absurd rfl, absurd rfl, absurd rfl, mem_row_of_mem names, absurd rfl⟩
  | nzc n z c names =>
    exact ⟨mem_row_of_mem names, absurd rfl, absurd rfl, absurd rfl, absurd rfl, mem_row_of_mem names, mem_row_of_mem names⟩
  | nvz n v z names =>
    exact ⟨mem_row_of_mem names, mem_row_of_mem names, absurd rfl, absurd rfl, absurd rfl, mem_row_of_mem names, absurd rfl⟩
  | nvzc n v z c names =>
    exact ⟨mem_row_of_mem names, mem_row_of_mem names, absurd rfl, absurd rfl, absurd rfl, mem_row_of_mem names,
      mem_row_of_mem names⟩
  | v v names => exact ⟨absurd rfl, mem_row_of_mem names, absurd rfl, absurd rfl, absurd rfl, absurd rfl, absurd rfl⟩
  | d d names => exact ⟨absurd rfl, absurd rfl, absurd rfl, mem_row_of_mem names, absurd rfl, absurd rfl, absurd rfl⟩
  | i i names => exact ⟨absurd rfl, absurd rfl, absurd rfl, absurd rfl, mem_row_of_mem names, absurd rfl, absurd rfl⟩
  | c c names => exact ⟨absurd rfl, absurd rfl, absurd rfl, absurd rfl, absurd rfl, absurd rfl, mem_row_of_mem names⟩
  | all _ names => refine ⟨?_, ?_, ?_, ?_, ?_, ?_, ?_⟩ <;> exact mem_row_of_mem names

end Sys2Proof.Machine

/-! PROOF of O50 (10_state.md R21, R22, R24): the registers each meaning writes, meaning by meaning. -/

namespace Sys2Proof.Machine

/-- From `s` to `t`, only registers changed that the tables of R21 and R22 and the list of R24 name for the instruction, and
neither the boundaries to come nor the cycle table did. -/
def RegistersChangeByTable (i : Instr) (s t : State) : Prop :=
  (t.a ≠ s.a → i.operation ∈ [.lda, .txa, .tya, .pla, .and, .ora, .eor, .adc, .sbc] ∨
    i.operation ∈ [.asl, .lsr, .rol, .ror] ∧ i.operand = .acc) ∧
  (t.x ≠ s.x → i.operation ∈ [.ldx, .tax, .tsx, .inx, .dex]) ∧
  (t.y ≠ s.y → i.operation ∈ [.ldy, .tay, .iny, .dey]) ∧
  (t.sp ≠ s.sp → i.operation ∈ [.pha, .php, .pla, .plp, .jsr, .rts, .brk, .rti, .txs]) ∧
  (t.pc ≠ s.pc → i.operation ∈ [.bcc, .bcs, .beq, .bne, .bmi, .bpl, .bvc, .bvs, .jmp, .jsr, .rts, .rti, .brk]) ∧
  t.inputs = s.inputs ∧ t.cycleTable = s.cycleTable

/-- Only the eight branches test a condition (R190). -/
theorem operation_of_conditionOf {op : Operation} {c : Condition} (h : conditionOf op = some c) :
    op ∈ [.bcc, .bcs, .beq, .bne, .bmi, .bpl, .bvc, .bvs] := by
  cases op <;> simp [conditionOf] at h ⊢

/-- Every meaning writes the registers the tables name for it. -/
theorem registersChangeByTable_of_meaning {i : Instr} {f : State → State} (h : Meaning i f) (s : State) :
    RegistersChangeByTable i s (f s) := by
  unfold RegistersChangeByTable
  cases h with
  | load r src op =>
    simp only [List.mem_cons, Prod.mk.injEq, List.not_mem_nil, or_false] at op
    obtain ⟨op, rfl⟩ | ⟨op, rfl⟩ | ⟨op, rfl⟩ := op <;> simp [loadInto_eq, op]
  | store r m => simp [storeFrom_eq]
  | transfer src dst _ op =>
    simp only [List.mem_cons, Prod.mk.injEq, List.not_mem_nil, or_false] at op
    obtain ⟨op, -, rfl⟩ | ⟨op, -, rfl⟩ | ⟨op, -, rfl⟩ | ⟨op, -, rfl⟩ | ⟨op, -, rfl⟩ := op <;> simp [transfer, op]
  | transferXToS op => simp [transferXToS, op]
  | logical g src _ op => obtain ⟨op, -⟩ | ⟨op, -⟩ | ⟨op, -⟩ := op <;> simp [logical_eq, op]
  | bitTest m => simp [bitTest_eq]
  | stepMemory g m => simp [readModifyWrite_mem]
  | stepRegister g r _ op =>
    simp only [List.mem_cons, Prod.mk.injEq, List.not_mem_nil, or_false] at op
    obtain ⟨-, ⟨op, rfl⟩ | ⟨op, rfl⟩⟩ | ⟨-, ⟨op, rfl⟩ | ⟨op, rfl⟩⟩ := op <;> simp [stepRegister, op]
  | add src op => simp [addWithCarry_eq, accumulate, op]
  | subtract src op => simp [subtractWithBorrow_eq, accumulate, op]
  | shift g pl operand op =>
    cases pl with
    | acc =>
      obtain ⟨op, -⟩ | ⟨op, -⟩ | ⟨op, -⟩ | ⟨op, -⟩ := op <;> simp [readModifyWrite_acc, operand, Place.operand, op]
    | mem m => simp [readModifyWrite_mem]
  | compare r src => simp [compareRegister_eq]
  | branch c rel8 op =>
    rw [branchIf_eq]
    exact ⟨absurd rfl, absurd rfl, absurd rfl, absurd rfl, mem_row_of_mem (operation_of_conditionOf op), rfl, rfl⟩
  | jump m op => simp [jumpTo_eq, op]
  | jumpToSubroutine addr op => simp [jumpToSubroutine_eq, op]
  | returnFromSubroutine op => simp [returnFromSubroutine_eq, op]
  | pushAccumulator op => simp [pushAccumulator, op]
  | pushStatus op => simp [pushStatus, op]
  | pullAccumulator op => simp [pullAccumulator, op]
  | pullStatus op => simp [pullStatus, op]
  | softwareInterrupt op => simp [softwareInterrupt, takeInterrupt_port, op]
  | returnFromInterrupt op => simp [returnFromInterrupt, op]
  | setFlag g => simp
  | nothing => simp

/-- Settles O50: an instruction is one of the meanings; RESET writes PC and I, and an entry S, PC and I. -/
theorem onlyTheseInstructionsChangeARegister : Obligations.OnlyTheseInstructionsChangeARegister := by
  constructor
  · intro i s t h
    obtain ⟨f, hf, hexec⟩ := exec_meaning i
    obtain rfl : f s = t := by simpa [hexec] using h
    exact registersChangeByTable_of_meaning hf s
  · intro s vector
    simp [resetTransition, resetSequence_eq, loadVector_eq, portReads, interruptTransition, takeInterrupt_port]

end Sys2Proof.Machine

/-! PROOF of O59 (10_state.md R27 to R29): the bits of the byte images of P, and the images that PHP and the entries push. -/

namespace Sys2Proof.Machine

/-- A flag's byte has the flag at its position and nothing elsewhere. -/
theorem getLsbD_flagAt (f : Bool) {k : Nat} (hk : k < 8) (j : Nat) : (flagAt f k).getLsbD j = (decide (j = k) && f) := by
  cases f with
  | false => simp [flagAt]
  | true => simp [flagAt, ← BitVec.twoPow_eq, BitVec.getLsbD_twoPow, hk, eq_comm]

/-- The layout of an image: N, V, 1, b, D, I, Z, C in bits 7 to 0 (R27, R28). -/
theorem getLsbD_statusByte (p : Status) (b : Bool) (k : Nat) : (statusByte b p).getLsbD k =
    if k = 7 then p.n else if k = 6 then p.v else if k = 5 then true else if k = 4 then b else if k = 3 then p.d
    else if k = 2 then p.i else if k = 1 then p.z else if k = 0 then p.c else false := by
  simp only [statusByte, BitVec.getLsbD_or, Nat.reduceLT, getLsbD_flagAt]
  split_ifs <;> simp [*]

/-- Viewing a pulled byte gives it back with bit 5 set (R27, R29). -/
theorem hostStatus_statusOfByte (v : Byte) : hostStatus (statusOfByte v) = v ||| 0x20#8 := by
  apply BitVec.eq_of_getLsbD_eq
  intro k hk
  rw [hostStatus, getLsbD_statusByte]
  interval_cases k <;> simp [statusOfByte]

/-- The last of the three pushes of an entry is the status image, at S - 2 (R220, R248). -/
theorem status_mem_takeInterrupt_bus (brk : Bool) (ret vector : Word) (s : State) :
    Access.write (stackAddress (s.sp - 2#8)) (statusByte brk s.p) ∈ (takeInterrupt brk ret vector s).bus := by
  have hsp : s.sp - 1#8 - 1#8 = s.sp - 2#8 := by bv_omega
  simp [takeInterrupt_eq, loadVector_eq, portReads, pushFrame_bus, hsp]

/-- Settles O59: the layout bit by bit, and the pushes found in the access record of PHP, BRK and the entries. -/
theorem hostViewOfStatus : Obligations.HostViewOfStatus := by
  refine ⟨getLsbD_statusByte, fun _ => rfl, fun _ => rfl, hostStatus_statusOfByte, ?_, ?_, ?_⟩
  · rintro s _ ⟨⟩
    exact push8_bus (statusByte true s.p) s
  · rintro s _ ⟨⟩
    exact status_mem_takeInterrupt_bus true (s.pc + 1) Config.irqVector s
  · rintro s _ vector rfl
    exact status_mem_takeInterrupt_bus false s.pc vector s

end Sys2Proof.Machine

/-! PROOF of O13 (20_memory.md R50): every operation, instruction and step is a list of accesses of the memory port, with
internal work between them; what a list of accesses does to memory and to the record is proved once, by induction on it. -/

namespace Sys2Proof.Machine

/-- `t` is what becomes of `s` by accesses of these kinds at these addresses, in order, and by work that leaves the memory
port alone. -/
inductive Accesses : List (Bool × Word) → State → State → Prop where
  | done (s : State) : Accesses [] s s
  | internal {l : List (Bool × Word)} {s t u : State} (port : withPort s t = s) (rest : Accesses l t u) : Accesses l s u
  | read {l : List (Bool × Word)} {s t : State} (a : Word) (rest : Accesses l (busRead a s).2 t) :
      Accesses ((false, a) :: l) s t
  | write {l : List (Bool × Word)} {s t : State} (a : Word) (v : Byte) (rest : Accesses l (busWrite a v s) t) :
      Accesses ((true, a) :: l) s t

namespace Accesses

theorem trans {l k : List (Bool × Word)} {s t u : State} (h : Accesses l s t) (h' : Accesses k t u) :
    Accesses (l ++ k) s u := by
  induction h with
  | done => exact h'
  | internal port _ ih => exact .internal port (ih h')
  | read a _ ih => exact .read a (ih h')
  | write a v _ ih => exact .write a v (ih h')

theorem thenInternal {l : List (Bool × Word)} {s t u : State} (h : Accesses l s t) (port : withPort t u = t) :
    Accesses l s u := by
  simpa using h.trans (.internal port (.done u))

/-- Accesses keep memory canonical (R50). -/
theorem wf {l : List (Bool × Word)} {s t : State} (h : Accesses l s t) (hm : Memory.wf s.mem = true) :
    Memory.wf t.mem = true := by
  induction h with
  | done => exact hm
  | internal port _ ih => exact ih ((congrArg State.mem port).symm ▸ hm)
  | read a _ ih => exact ih (wf_memoryAfterRead hm)
  | write a v _ ih => exact ih (wf_memoryAfterWrite hm a v)

end Accesses

/-! Work that leaves the memory port alone. -/

@[simp] theorem withPort_self (s : State) : withPort s s = s := rfl
@[simp] theorem withPort_withPort (r s t : State) : withPort r (withPort s t) = withPort r t := rfl
@[simp] theorem withPort_setReg (s t : State) (r : Reg) (v : Byte) : withPort s (t.setReg r v) = withPort s t := by
  cases r <;> rfl
@[simp] theorem withPort_setPc (s t : State) (v : Word) : withPort s (t.setPc v) = withPort s t := rfl
@[simp] theorem withPort_setP (s t : State) (v : Status) : withPort s (t.setP v) = withPort s t := rfl
@[simp] theorem withPort_setCycles (s t : State) (v : Option Nat) : withPort s (t.setCycles v) = withPort s t := rfl
@[simp] theorem withPort_accumulate (s t : State) (r : AluResult) : withPort s (accumulate r t) = withPort s t := rfl

/-! The accesses of each shared operation. -/

theorem accesses_portReads (l : List Word) (s : State) : Accesses (readsAt l) s (portReads l s).2 := by
  induction l generalizing s with
  | nil => exact .done s
  | cons a l ih => exact .read a (ih _)

theorem accesses_portWrites (l : List (Word × Byte)) (s : State) :
    Accesses (writesAt (l.map Prod.fst)) s (portWrites l s) := by
  induction l generalizing s with
  | nil => exact .done s
  | cons c l ih => exact .write c.1 c.2 (ih _)

theorem accesses_resolve (m : MemOperand) (s : State) :
    Accesses (readsAt (pointerAddresses m s)) s (resolve m s).state :=
  resolve_state m s ▸ accesses_portReads _ s

theorem accesses_readSource (src : Source) (s : State) :
    Accesses (readsAt (sourceAddresses src s)) s (readSource src s).2 :=
  readSource_state src s ▸ accesses_portReads _ s

theorem accesses_push8 (v : Byte) (s : State) : Accesses (writesAt [stackAddress s.sp]) s (push8 v s) :=
  .write _ v ((Accesses.done _).thenInternal (by simp [push8]))

theorem accesses_pull8 (s : State) : Accesses (readsAt [stackAddress (s.sp + 1#8)]) s (pull8 s).2 :=
  .internal (t := s.setReg .sp (s.sp + 1#8)) (by simp) (.read _ (.done _))

theorem accesses_loadVector (vector : Word) (s : State) :
    Accesses (readsAt [vector, vector + 1]) s (loadVector vector s) :=
  (accesses_portReads [vector, vector + 1] s).thenInternal (by simp [loadVector_eq])

/-- An entry writes its frame and reads its vector (R220, R248). -/
theorem accesses_takeInterrupt (brk : Bool) (ret vector : Word) (s : State) :
    Accesses (writesAt [stackAddress s.sp, stackAddress (s.sp - 1#8), stackAddress (s.sp - 2#8)] ++ readsAt [vector, vector + 1])
      s (takeInterrupt brk ret vector s) := by
  rw [takeInterrupt_port]
  exact ((accesses_portWrites (frameBytes brk ret s) s).trans (accesses_portReads [vector, vector + 1] _)).thenInternal rfl

/-- JSR pushes two bytes (R201). -/
theorem accesses_jumpToSubroutine (addr : Word) (s : State) :
    Accesses (writesAt [stackAddress s.sp, stackAddress (s.sp - 1#8)]) s (jumpToSubroutine addr s) := by
  rw [jumpToSubroutine_eq]
  exact ((accesses_push8 (highByte (s.pc - 1)) s).trans (accesses_push8 (lowByte (s.pc - 1)) _)).thenInternal (by simp)

/-- RTS pulls two bytes (R202). -/
theorem accesses_returnFromSubroutine (s : State) :
    Accesses (readsAt [stackAddress (s.sp + 1#8), stackAddress (s.sp + 2#8)]) s (returnFromSubroutine s) := by
  have h2 : s.sp + 1#8 + 1#8 = s.sp + 2#8 := by bv_omega
  have h := (accesses_pull8 s).trans (accesses_pull8 (pull8 s).2)
  rw [pull8_sp, h2] at h
  rw [returnFromSubroutine_eq]
  exact h.thenInternal (by simp)

/-- A return from an interrupt reads the three bytes it pulls (R221). -/
theorem accesses_returnFromInterrupt (s : State) :
    Accesses (readsAt [stackAddress (s.sp + 1#8), stackAddress (s.sp + 2#8), stackAddress (s.sp + 3#8)]) s
      (returnFromInterrupt s) := by
  obtain ⟨v, lo, hi, t, hreads, heq⟩ := returnFromInterrupt_eq s
  have h := accesses_portReads [stackAddress (s.sp + 1#8), stackAddress (s.sp + 2#8), stackAddress (s.sp + 3#8)] s
  rw [hreads] at h
  rw [heq]
  exact h.thenInternal (by simp)

/-- RESET reads its vector (R270). -/
theorem accesses_resetSequence (s : State) : Accesses (readsAt [0xFFFC#16, 0xFFFD#16]) s (resetSequence s) :=
  .internal (t := s.setP { s.p with i := true }) rfl (accesses_loadVector 0xFFFC#16 _)

/-- In memory a read-modify-write reads its operand and writes the same address (R61). -/
theorem accesses_readModifyWrite_mem (f : Modifier) (m : MemOperand) (s : State) :
    Accesses (readsAt (sourceAddresses (.mem m) s) ++ writesAt [(resolve m s).ea]) s (readModifyWrite f (.mem m) s) :=
  ((accesses_readSource (.mem m) s).trans (.write _ (f (readSource (.mem m) s).1 s.p).1 (.done _))).thenInternal
    (by rw [readModifyWrite_mem]; rfl)

/-! The accesses R61 lists for an instruction, by the shape of its operand. -/

/-- A number below 256 as an address in page 0. -/
theorem ofNat_eq_zeroExtend16 {n : Nat} {v : Byte} (h : n = v.toNat) : BitVec.ofNat 16 n = zeroExtend16 v :=
  BitVec.eq_of_toNat_eq (by rw [zeroExtend16_toNat, BitVec.toNat_ofNat]; omega)

/-- The pointer reads R61 lists for an operand are those of its resolver. -/
theorem pointerAccesses_mem (m : MemOperand) (s : State) : pointerAccesses (.mem m) s = readsAt (pointerAddresses m s) := by
  cases m with
  | zp | zpx | zpy | abs | abx | aby | rel => rfl
  | ind ptr => rfl
  | izx z =>
    have hlo : (z.toNat + s.x.toNat) % 256 = (z + s.x).toNat := by bv_omega
    have hhi : (z.toNat + s.x.toNat + 1) % 256 = (z + s.x + 1#8).toNat := by bv_omega
    rw [pointerAccesses, ofNat_eq_zeroExtend16 hlo, ofNat_eq_zeroExtend16 hhi, pointerAddresses]
  | izy z =>
    have hhi : (z.toNat + 1) % 256 = (z + 1#8).toNat := by bv_omega
    rw [pointerAccesses, ofNat_eq_zeroExtend16 rfl, ofNat_eq_zeroExtend16 hhi, pointerAddresses]

theorem accessesAfterFetch_imp {i : Instr} (operand : i.operand = .imp) (s : State) :
    accessesAfterFetch i s = operationAccesses i.operation .imp s := by
  rw [accessesAfterFetch, operand]
  rfl

theorem accessesAfterFetch_mem {i : Instr} {m : MemOperand} (operand : i.operand = .mem m) (s : State) :
    accessesAfterFetch i s = readsAt (pointerAddresses m s) ++ operationAccesses i.operation (.mem m) s := by
  rw [accessesAfterFetch, operand, pointerAccesses_mem]

/-- The operations that read their operand and store nothing there (R61). -/
def readingOperations : List Operation := [.lda, .ldx, .ldy, .and, .ora, .eor, .adc, .sbc, .cmp, .cpx, .cpy, .bit]

theorem operationAccesses_reading {op : Operation} (h : op ∈ readingOperations) (o : Operand) (s : State) :
    operationAccesses op o s = readsAt (operandAddress o s) := by
  cases op <;> simp [readingOperations, operationAccesses] at h ⊢

/-- An operation that reads its operand makes the reads of its source and no other access (R61). -/
theorem accessesAfterFetch_source {i : Instr} {src : Source} (operand : i.operand = src.operand)
    (op : i.operation ∈ readingOperations) (s : State) : accessesAfterFetch i s = readsAt (sourceAddresses src s) := by
  cases src with
  | imm v => rw [accessesAfterFetch, operand, operationAccesses_reading op]; rfl
  | mem m => rw [accessesAfterFetch_mem operand, operationAccesses_reading op]; simp [readsAt, sourceAddresses, operandAddress]

/-- Work on the operand byte of a reading operation completes its accesses. -/
theorem accesses_of_reading {i : Instr} {src : Source} {s t : State} (operand : i.operand = src.operand)
    (op : i.operation ∈ readingOperations) (port : withPort (readSource src s).2 t = (readSource src s).2) :
    Accesses (accessesAfterFetch i s) s t := by
  rw [accessesAfterFetch_source operand op]
  exact (accesses_readSource src s).thenInternal port

/-- An operation that modifies memory reads and writes its operand (R61). -/
theorem accessesAfterFetch_modify {i : Instr} {m : MemOperand} (operand : i.operand = .mem m)
    (op : i.operation ∈ [.inc, .dec, .asl, .lsr, .rol, .ror]) (s : State) :
    accessesAfterFetch i s = readsAt (sourceAddresses (.mem m) s) ++ writesAt [(resolve m s).ea] := by
  have hop : operationAccesses i.operation (.mem m) s = readsAt [(resolve m s).ea] ++ writesAt [(resolve m s).ea] := by
    generalize i.operation = op' at op
    cases op' <;> simp [operationAccesses, operandAddress] at op ⊢
  rw [accessesAfterFetch_mem operand, hop]
  simp [readsAt, sourceAddresses]

/-- Only the shifts and rotates have an accumulator form (R86). -/
theorem operation_of_operand_acc {i : Instr} (operand : i.operand = .acc) : i.operation ∈ [.asl, .lsr, .rol, .ror] := by
  cases i <;> simp [Instr.operand, Instr.operation] at operand ⊢

/-- An accumulator form makes no access of its own (R103). -/
theorem accessesAfterFetch_acc {i : Instr} (operand : i.operand = .acc) (s : State) : accessesAfterFetch i s = [] := by
  have op := operation_of_operand_acc operand
  simp only [List.mem_cons, List.not_mem_nil, or_false] at op
  rw [accessesAfterFetch, operand]
  obtain op | op | op | op := op <;> rw [op] <;> rfl

/-- The operations of implied and branch forms that make no access of their own (R61). -/
def silentOperations : List Operation :=
  [.bcc, .bcs, .beq, .bne, .bmi, .bpl, .bvc, .bvs, .jmp, .tax, .tay, .txa, .tya, .tsx, .txs, .inx, .iny, .dex, .dey, .clc, .cld,
    .cli, .clv, .sec, .sed, .sei, .nop]

theorem operationAccesses_silent {op : Operation} (h : op ∈ silentOperations) (o : Operand) (s : State) :
    operationAccesses op o s = [] := by
  cases op <;> simp [silentOperations, operationAccesses] at h ⊢

/-- A silent operation of an implied form makes no access at all. -/
theorem accesses_of_silent {i : Instr} {s t : State} (operand : i.operand = .imp) (op : i.operation ∈ silentOperations)
    (port : withPort s t = s) : Accesses (accessesAfterFetch i s) s t := by
  rw [accessesAfterFetch_imp operand, operationAccesses_silent op]
  exact (Accesses.done s).thenInternal port

/-! Every instruction and every step. -/

/-- Every meaning makes the accesses R61 lists for its instruction, in order. -/
theorem accesses_of_meaning {i : Instr} {f : State → State} (h : Meaning i f) (s : State) :
    Accesses (accessesAfterFetch i s) s (f s) := by
  cases h with
  | load r src op operand =>
    exact accesses_of_reading operand (mem_of_pair_mem op (by decide)) (by simp [loadInto])
  | store r m op operand =>
    have hop : operationAccesses i.operation (.mem m) s = writesAt [(resolve m s).ea] := by
      simp only [List.mem_cons, Prod.mk.injEq, List.not_mem_nil, or_false] at op
      obtain ⟨op, -⟩ | ⟨op, -⟩ | ⟨op, -⟩ := op <;> rw [op] <;> rfl
    rw [accessesAfterFetch_mem operand, hop]
    exact (accesses_resolve m s).trans (.write _ _ (.done _))
  | transfer src dst operand op =>
    exact accesses_of_silent operand (mem_of_pair_mem op (by decide)) (by simp [transfer])
  | transferXToS op operand =>
    exact accesses_of_silent operand (by simp [op, silentOperations]) (by simp [transferXToS])
  | logical g src operand op =>
    have hop : i.operation ∈ readingOperations := by
      obtain ⟨hop, -⟩ | ⟨hop, -⟩ | ⟨hop, -⟩ := op <;> simp [hop, readingOperations]
    exact accesses_of_reading operand hop (by simp [logical])
  | bitTest m op operand =>
    exact accesses_of_reading (src := .mem m) operand (by simp [op, readingOperations]) (by simp [bitTest])
  | stepMemory g m operand op =>
    rw [accessesAfterFetch_modify operand (by obtain ⟨op, -⟩ | ⟨op, -⟩ := op <;> simp [op])]
    exact accesses_readModifyWrite_mem g m s
  | stepRegister g r operand op =>
    have hop : i.operation ∈ silentOperations := by
      obtain ⟨-, op⟩ | ⟨-, op⟩ := op
      · exact mem_of_pair_mem op (by decide)
      · exact mem_of_pair_mem op (by decide)
    exact accesses_of_silent operand hop (by simp [stepRegister])
  | add src op operand =>
    exact accesses_of_reading operand (by simp [op, readingOperations]) (by simp [addWithCarry])
  | subtract src op operand =>
    exact accesses_of_reading operand (by simp [op, readingOperations]) (by simp [subtractWithBorrow])
  | shift g pl operand op =>
    cases pl with
    | acc =>
      rw [accessesAfterFetch_acc operand]
      exact (Accesses.done s).thenInternal (by simp [readModifyWrite_acc])
    | mem m =>
      rw [accessesAfterFetch_modify operand (by obtain ⟨op, -⟩ | ⟨op, -⟩ | ⟨op, -⟩ | ⟨op, -⟩ := op <;> simp [op])]
      exact accesses_readModifyWrite_mem g m s
  | compare r src op operand =>
    exact accesses_of_reading operand (mem_of_pair_mem op (by decide)) (by simp [compareRegister])
  | branch c rel8 op operand =>
    have hop : i.operation ∈ silentOperations := List.mem_append_left _ (operation_of_conditionOf op)
    rw [accessesAfterFetch_mem operand, operationAccesses_silent hop]
    exact (Accesses.done s).thenInternal (by simp [branchIf_eq])
  | jump m op operand =>
    rw [accessesAfterFetch_mem operand, operationAccesses_silent (by simp [op, silentOperations]), List.append_nil]
    exact (accesses_resolve m s).thenInternal (by simp [jumpTo])
  | jumpToSubroutine addr op operand =>
    rw [accessesAfterFetch_mem operand, op]
    exact accesses_jumpToSubroutine addr s
  | returnFromSubroutine op operand =>
    rw [accessesAfterFetch_imp operand, op]
    exact accesses_returnFromSubroutine s
  | pushAccumulator op operand =>
    rw [accessesAfterFetch_imp operand, op]
    exact accesses_push8 s.a s
  | pushStatus op operand =>
    rw [accessesAfterFetch_imp operand, op]
    exact accesses_push8 _ s
  | pullAccumulator op operand =>
    rw [accessesAfterFetch_imp operand, op]
    exact (accesses_pull8 s).thenInternal (by simp [pullAccumulator])
  | pullStatus op operand =>
    rw [accessesAfterFetch_imp operand, op]
    exact (accesses_pull8 s).thenInternal (by simp [pullStatus])
  | softwareInterrupt op operand =>
    rw [accessesAfterFetch_imp operand, op]
    exact accesses_takeInterrupt true (s.pc + 1) 0xFFFE#16 s
  | returnFromInterrupt op operand =>
    rw [accessesAfterFetch_imp operand, op]
    exact accesses_returnFromInterrupt s
  | setFlag g operand op =>
    have hop : i.operation ∈ silentOperations := by
      obtain ⟨op, -⟩ | ⟨op, -⟩ | ⟨op, -⟩ | ⟨op, -⟩ | ⟨op, -⟩ | ⟨op, -⟩ | ⟨op, -⟩ := op <;> simp [op, silentOperations]
    exact accesses_of_silent operand hop rfl
  | nothing op operand =>
    exact accesses_of_silent operand (by simp [op, silentOperations]) rfl

/-- Every instruction makes the accesses R61 lists for it, in order. -/
theorem accesses_of_exec {i : Instr} {s t : State} (h : exec i s = .next t) : Accesses (accessesAfterFetch i s) s t := by
  obtain ⟨f, hf, hexec⟩ := exec_meaning i
  obtain rfl : f s = t := by simpa [hexec] using h
  exact accesses_of_meaning hf s

/-- The state a fetch leaves, whatever it answers. -/
def Fetched.state : Fetched → State
  | .instr _ s => s
  | .invalid _ s => s

theorem accesses_fetch8 (s : State) : Accesses (readsAt [s.pc]) s (fetch8 s).2 :=
  .read _ (.internal (t := (fetch8 s).2) rfl (.done _))

/-- A fetch reads the bytes of the instruction and makes no other access (R59, R92). -/
theorem accesses_fetchInstruction (s : State) : ∃ l, Accesses (readsAt l) s (fetchInstruction s).state := by
  have h1 := accesses_fetch8 s
  have h2 := h1.trans (accesses_fetch8 _)
  have h3 := h2.trans (accesses_fetch8 _)
  cases ht : dispatchTable (answer s.pc s) with
  | none => rw [fetchInstruction_undefined ht]; exact ⟨_, h1⟩
  | some t =>
    cases t with
    | bare i => rw [fetchInstruction_bare ht]; exact ⟨_, h1⟩
    | byte f => rw [fetchInstruction_byte ht]; exact ⟨[_, _], h2⟩
    | word f => rw [fetchInstruction_word ht]; exact ⟨[_, _, _], h3⟩

/-! The transition a step makes, by the kind its boundary chooses (R245). -/

theorem step_of_reset {s : State} (h : chooseTransition (currentBoundary s) s.p.i = .reset) :
    step s = .next (resetTransition (beginTransition s)) := by
  simp only [step, beginTransition_p, h]

theorem step_of_nmi {s : State} (h : chooseTransition (currentBoundary s) s.p.i = .nmi) :
    step s = .next (interruptTransition Config.nmiVector (beginTransition s)) := by
  simp only [step, beginTransition_p, h]

theorem step_of_irq {s : State} (h : chooseTransition (currentBoundary s) s.p.i = .irq) :
    step s = .next (interruptTransition Config.irqVector (beginTransition s)) := by
  simp only [step, beginTransition_p, h]

theorem step_of_instruction {s : State} (h : RunsInstruction s) : step s = runInstruction (beginTransition s) := by
  simp only [step, beginTransition_p, show chooseTransition (currentBoundary s) s.p.i = .instruction from h]

/-- What an instruction transition can do: complete with an instruction, or fault and leave the state of the fetch (R241). -/
theorem runInstruction_cases (s : State) :
    (∃ i u t, fetchInstruction s = .instr i u ∧ exec i u = .next t ∧
      runInstruction s = .next (t.setCycles (some (cycleReport i u)))) ∨
    ∃ b u, fetchInstruction s = .invalid b u ∧ runInstruction s = .fault (.invalidOpcode b u) := by
  cases hfetch : fetchInstruction s with
  | instr i u =>
    obtain ⟨f, -, hexec⟩ := exec_meaning i
    exact .inl ⟨i, u, f u, rfl, hexec u, by rw [runInstruction, hfetch]; simp only [hexec, withCycles]⟩
  | invalid b u => exact .inr ⟨b, u, rfl, by rw [runInstruction, hfetch]⟩

theorem accesses_resetTransition (s : State) : Accesses (readsAt [0xFFFC#16, 0xFFFD#16]) s (resetTransition s) :=
  (accesses_resetSequence s).thenInternal rfl

theorem accesses_interruptTransition (vector : Word) (s : State) :
    Accesses (writesAt [stackAddress s.sp, stackAddress (s.sp - 1#8), stackAddress (s.sp - 2#8)] ++ readsAt [vector, vector + 1])
      s (interruptTransition vector s) :=
  (accesses_takeInterrupt false s.pc vector s).thenInternal rfl

/-- An instruction transition, completed or not, is its fetch's accesses and those of its operation. -/
theorem accesses_of_runInstruction {s t : State}
    (h : runInstruction s = .next t ∨ ∃ b, runInstruction s = .fault (.invalidOpcode b t)) : ∃ l, Accesses l s t := by
  obtain ⟨l, hl⟩ := accesses_fetchInstruction s
  obtain ⟨i, u, v, hfetch, hexec, hrun⟩ | ⟨b, u, hfetch, hrun⟩ := runInstruction_cases s
  · obtain rfl : v.setCycles (some (cycleReport i u)) = t := by simpa [hrun] using h
    rw [hfetch] at hl
    exact ⟨_, (hl.trans (accesses_of_exec hexec)).thenInternal rfl⟩
  · obtain rfl : u = t := by simpa [hrun] using h
    rw [hfetch] at hl
    exact ⟨_, hl⟩

/-- Whatever kind of transition a step is, the state it leaves comes of accesses from the state it begins in (R50, R245). -/
theorem accesses_of_step {s t : State} (h : step s = .next t ∨ ∃ b, step s = .fault (.invalidOpcode b t)) :
    ∃ l, Accesses l (beginTransition s) t := by
  cases hkind : chooseTransition (currentBoundary s) s.p.i with
  | reset =>
    obtain rfl : resetTransition (beginTransition s) = t := by simpa [step_of_reset hkind] using h
    exact ⟨_, accesses_resetTransition _⟩
  | nmi =>
    obtain rfl : interruptTransition _ (beginTransition s) = t := by simpa [step_of_nmi hkind] using h
    exact ⟨_, accesses_interruptTransition _ _⟩
  | irq =>
    obtain rfl : interruptTransition _ (beginTransition s) = t := by simpa [step_of_irq hkind] using h
    exact ⟨_, accesses_interruptTransition _ _⟩
  | instruction =>
    rw [step_of_instruction hkind] at h
    exact accesses_of_runInstruction h

/-- A step keeps memory canonical, the host's changes before it and the environment's at its accesses included. -/
theorem inv_of_step {s t : State} (hs : s.Inv) (h : step s = .next t ∨ ∃ b, step s = .fault (.invalidOpcode b t)) : t.Inv := by
  obtain ⟨l, hl⟩ := accesses_of_step h
  exact hl.wf (Memory.wf_applyHostWrites _ hs)

/-- Settles O13: a step is a list of accesses after the host's changes, and each of them keeps memory canonical. -/
theorem everyStepKeepsMemoryCanonical : Obligations.EveryStepKeepsMemoryCanonical :=
  fun _ hs => ⟨fun _ h => inv_of_step hs (.inl h), fun b _ h => inv_of_step hs (.inr ⟨b, h⟩)⟩

end Sys2Proof.Machine

/-! PROOF of O19 (20_memory.md R50 to R52): what the port answers, by the first response listed. -/

namespace Sys2Proof.Machine

/-- Plain RAM answers the next access: no response is listed, or the first one says so. -/
def NextIsRam (s : State) : Prop := s.responses = [] ∨ ∃ rest, s.responses = .ram :: rest

theorem busRead_of_ram {s : State} (h : NextIsRam s) (a : Word) :
    busRead a s = (peek s a, { s with responses := s.responses.tail, bus := s.bus ++ [.read a (peek s a)] }) := by
  have hmem : memoryAfterRead s = s.mem := by obtain h | ⟨rest, h⟩ := h <;> simp [memoryAfterRead, h]
  have hans : answer a s = peek s a := by obtain h | ⟨rest, h⟩ := h <;> simp [answer, h]
  rw [busRead, hmem, hans]
  rfl

theorem busWrite_of_ram {s : State} (h : NextIsRam s) (a : Word) (v : Byte) :
    busWrite a v s =
      { s with mem := Memory.write s.mem a.toNat v, responses := s.responses.tail, bus := s.bus ++ [.write a v] } := by
  have hmem : memoryAfterWrite a v s = Memory.write s.mem a.toNat v := by
    obtain h | ⟨rest, h⟩ := h <;> simp [memoryAfterWrite, h]
  rw [busWrite, hmem]
  rfl

section
variable {s : State} {w : Byte} {changes : List (Word × Byte)} {rest : List Response}

theorem busRead_of_device (h : s.responses = .device w changes :: rest) (a : Word) :
    busRead a s = (w, { s with mem := applyHostWrites changes s.mem, responses := rest, bus := s.bus ++ [.read a w] }) := by
  simp [busRead, answer, memoryAfterRead, h, State.setMem, State.setResponses, State.setBus]

theorem busWrite_of_device (h : s.responses = .device w changes :: rest) (a : Word) (v : Byte) :
    busWrite a v s =
      { s with mem := applyHostWrites changes s.mem, responses := rest, bus := s.bus ++ [.write a v] } := by
  simp [busWrite, memoryAfterWrite, h, State.setMem, State.setResponses, State.setBus]

end

/-- After a write to plain RAM a read is answered with the byte memory holds. -/
theorem busRead_busWrite_value {s : State} (h : PlainRam s) (a b : Word) (v : Byte) :
    (busRead b (busWrite a v s)).1 = peek (busWrite a v s) b :=
  (h.of_subset (t := busWrite a v s) (List.tail_subset _)).answer b

/-- Settles O19: the port's equations for both kinds of response, and reading back what plain RAM stored. -/
theorem memoryPortIsAnsweredByTheEnvironment : Obligations.MemoryPortIsAnsweredByTheEnvironment := by
  refine ⟨fun a v s h => ⟨busRead_of_ram h a, busWrite_of_ram h a v⟩,
    fun a v w changes rest s h => ⟨busRead_of_device h a, busWrite_of_device h a v⟩, fun a b v s hinv hram => ?_⟩
  simp only [busRead_busWrite_value hram]
  exact ⟨peek_busWrite_same hram hinv a v, fun hab => peek_busWrite_other (hram.leaves b) hab v⟩

end Sys2Proof.Machine

/-! PROOF of O51 and O52 (20_memory.md R57, R60, R61): a byte changes only by the environment or by a write at its address, and
the writes an instruction makes are read off the table of R61. -/

namespace Sys2Proof.Machine

/-- Accesses that write no byte at an address leave it, where the environment does (R57). -/
theorem Accesses.peek {l : List (Bool × Word)} {s t : State} {a : Word} (h : Accesses l s t) (env : EnvironmentLeaves a s)
    (unwritten : (true, a) ∉ l) : peek t a = peek s a := by
  induction h with
  | done => rfl
  | internal port _ ih =>
    have hmem := congrArg State.mem port
    have hres := congrArg State.responses port
    rw [ih (env.of_subset fun _ hr => hres ▸ hr) unwritten]
    exact peek_congr hmem a
  | read b _ ih =>
    rw [ih (env.busRead b) fun h => unwritten (List.mem_cons_of_mem _ h)]
    exact peek_busRead env b
  | write b v _ ih =>
    rw [List.mem_cons, not_or, Prod.mk.injEq, not_and] at unwritten
    rw [ih (env.busWrite b v) unwritten.2]
    exact peek_busWrite_other env (unwritten.1 rfl) v

/-- Pointer accesses are reads (R61). -/
theorem write_notMem_pointerAccesses (o : Operand) (s : State) (a : Word) : (true, a) ∉ pointerAccesses o s := by
  unfold pointerAccesses
  split <;> simp [readsAt]

/-- The operations that write, by the table of R61. -/
theorem operation_of_write {op : Operation} {o : Operand} {s : State} {a : Word} (h : (true, a) ∈ operationAccesses op o s) :
    op ∈ [.sta, .stx, .sty, .inc, .dec, .asl, .lsr, .rol, .ror, .pha, .php, .jsr, .brk] := by
  cases op <;> simp [operationAccesses, readsAt] at h ⊢

/-- An instruction leaves a byte that its operation does not write and the environment does not change. -/
theorem peek_of_exec {i : Instr} {s t : State} {a : Word} (h : exec i s = .next t) (env : EnvironmentLeaves a s)
    (unwritten : (true, a) ∉ operationAccesses i.operation i.operand s) : peek t a = peek s a := by
  refine (accesses_of_exec h).peek env ?_
  rw [accessesAfterFetch, List.mem_append, not_or]
  exact ⟨write_notMem_pointerAccesses i.operand s a, unwritten⟩

/-- Settles O51: of the operations that write, the accumulator forms make no access. -/
theorem nonStoringFormsLeaveMemory : Obligations.NonStoringFormsLeaveMemory := by
  intro i s t h hform a env
  refine peek_of_exec h env ?_
  obtain hop | hacc := hform
  · exact fun hwrite => hop (operation_of_write hwrite)
  · have hnone : operationAccesses i.operation i.operand s = [] :=
      (List.append_eq_nil_iff.mp (accessesAfterFetch_acc hacc s)).2
    rw [hnone]
    exact List.not_mem_nil

/-- The writes of a storing operation on memory are at its effective address (R61). -/
theorem write_mem_store {op : Operation} {m : MemOperand} {s : State} {a : Word}
    (hop : op ∈ [.sta, .stx, .sty, .inc, .dec, .asl, .lsr, .rol, .ror])
    (h : (true, a) ∈ operationAccesses op (.mem m) s) : a = (resolve m s).ea := by
  simp only [List.mem_cons, List.not_mem_nil, or_false] at hop
  obtain rfl | rfl | rfl | rfl | rfl | rfl | rfl | rfl | rfl := hop
  all_goals simpa [operationAccesses, readsAt, writesAt, operandAddress] using h

/-- The write of a push instruction is where S points (R210). -/
theorem write_mem_push {op : Operation} {o : Operand} {s : State} {a : Word} (hop : op ∈ [.pha, .php])
    (h : (true, a) ∈ operationAccesses op o s) : a = stackAddress s.sp := by
  simp only [List.mem_cons, List.not_mem_nil, or_false] at hop
  obtain rfl | rfl := hop
  all_goals simpa [operationAccesses, writesAt] using h

/-- Settles O52: a byte at any other address is none that the operation writes, by its row of R61. -/
theorem storingFormsWriteOnlyTheirTarget : Obligations.StoringFormsWriteOnlyTheirTarget := by
  refine ⟨?_, ?_, ?_, ?_⟩
  · intro i s t m h operand op a ha env
    refine peek_of_exec h env fun hwrite => ha ?_
    rw [operand] at hwrite
    exact write_mem_store op hwrite
  · intro i s t h op a ha env
    exact peek_of_exec h env fun hwrite => ha (write_mem_push op hwrite)
  · intro i s t h op a ha env
    exact peek_of_exec h env fun hwrite => ha (by simpa [op, operationAccesses, writesAt] using hwrite)
  · intro i s t h op a ha env
    exact peek_of_exec h env fun hwrite => ha (by simpa [op, operationAccesses, writesAt, readsAt] using hwrite)

end Sys2Proof.Machine

/-! PROOF of O57 (20_memory.md R52): reads at the machine's 65,536 addresses decide the reads at every number. -/

namespace Sys2Proof.Machine

/-- Past the 64 KiB space a canonical memory lists nothing (R34). -/
theorem Memory.read_beyond {a lo : Nat} {m : Memory} (hm : Memory.wfFrom lo m = true) (ha : 65536 ≤ a) :
    Memory.read m a = Config.unlistedByte := by
  induction m generalizing lo with
  | nil => rfl
  | cons c rest ih =>
    simp only [Memory.wfFrom, Bool.and_eq_true, decide_eq_true_eq] at hm
    obtain ⟨⟨⟨-, hlt⟩, -⟩, hrest⟩ := hm
    have hne : c.1 ≠ a := by omega
    simpa [Memory.read, hne] using ih hrest

/-- Settles O57: inside the 64 KiB space by hypothesis, beyond it because nothing is listed there. -/
theorem canonicalMemoriesAreDeterminedByTheirReads : Obligations.CanonicalMemoriesAreDeterminedByTheirReads := by
  intro s t hs ht h
  refine Memory.eq_of_read hs ht fun a => ?_
  by_cases ha : a < 65536
  · simpa [peek, Nat.mod_eq_of_lt ha] using h (BitVec.ofNat 16 a)
  · rw [Memory.read_beyond hs (by omega), Memory.read_beyond ht (by omega)]

end Sys2Proof.Machine

/-! PROOF of O58 (20_memory.md R66): STA leaves PC and what plain RAM stored, and the fetch reads it back. -/

namespace Sys2Proof.Machine

/-- Every format of STA stores A at its effective address (R134). -/
theorem exec_sta {i : Instr} {m : MemOperand} (op : i.operation = .sta) (operand : i.operand = .mem m) (s : State) :
    exec i s = .next (storeFrom .a m s) := by
  cases i <;> cases op <;> cases operand <;> rfl

/-- Accesses use up responses and add none. -/
theorem Accesses.responses_subset {l : List (Bool × Word)} {s t : State} (h : Accesses l s t) :
    t.responses ⊆ s.responses := by
  induction h with
  | done => exact List.Subset.refl _
  | internal port _ ih => exact fun _ hr => congrArg State.responses port ▸ ih hr
  | read _ _ ih => exact List.Subset.trans ih (List.tail_subset _)
  | write _ _ _ ih => exact List.Subset.trans ih (List.tail_subset _)

/-- Settles O58: the fetch's address is the store's, and plain RAM answers it with the byte stored. -/
theorem storesAreSeenByTheNextFetch : Obligations.StoresAreSeenByTheNextFetch := by
  intro i s t m hinv hram op operand hea h
  have hafter : PlainRam t := hram.of_subset (accesses_of_exec h).responses_subset
  have hresolved : PlainRam (resolve m s).state := hram.of_subset (accesses_resolve m s).responses_subset
  obtain rfl : storeFrom .a m s = t := by simpa [exec_sta op operand] using h
  rw [fetch8_value, hafter.answer, storeFrom_eq, withPort_pc, peek_withPort, hea, State.reg_a]
  exact peek_busWrite_same hresolved (wf_resolve hinv m) s.pc s.a

end Sys2Proof.Machine

/-! PROOF of O53 (20_memory.md R59 to R61): the record of a transition lists its accesses, which start from an empty record. -/

namespace Sys2Proof.Machine

/-- The record grows by exactly the accesses made, in order (R59). -/
theorem Accesses.bus {l : List (Bool × Word)} {s t : State} (h : Accesses l s t) :
    t.bus.map Access.place = s.bus.map Access.place ++ l := by
  induction h with
  | done s => simp
  | internal port _ ih => rw [ih, ← congrArg State.bus port]; rfl
  | read a _ ih => simp [ih, Access.place]
  | write a v _ ih => simp [ih, Access.place]

/-- A transition starts with an empty record, so the record it leaves is its accesses (R59). -/
theorem bus_of_accesses {l : List (Bool × Word)} {s t : State} (h : Accesses l (beginTransition s) t) :
    t.bus.map Access.place = l := by
  simpa using h.bus

/-- A step that runs an instruction makes its fetch's accesses, then those of its operation (R59, R61). -/
theorem accesses_of_instruction {s t u : State} {i : Instr} {bytes : List Byte} (hruns : RunsInstruction s)
    (hdecode : decode bytes = .instr i [])
    (hreads : portReads (fetchAddresses s i.format.length) (beginTransition s) = (bytes, u)) (hstep : step s = .next t) :
    Accesses (readsAt (fetchAddresses s i.format.length) ++
      accessesAfterFetch i (u.setPc (s.pc + BitVec.ofNat 16 i.format.length))) (beginTransition s) t := by
  have hfetch : fetchInstruction (beginTransition s) = .instr i (u.setPc (s.pc + BitVec.ofNat 16 i.format.length)) :=
    fetchInstruction_of_decode hdecode hreads
  have hfetched := accesses_portReads (fetchAddresses s i.format.length) (beginTransition s)
  rw [hreads] at hfetched
  have hatOperation := hfetched.thenInternal (u := u.setPc (s.pc + BitVec.ofNat 16 i.format.length)) rfl
  rw [step_of_instruction hruns, runInstruction, hfetch] at hstep
  obtain ⟨v, hexec, rfl⟩ := withCycles_next hstep
  exact (hatOperation.trans (accesses_of_exec hexec)).thenInternal rfl

/-- Only an instruction transition faults (R240, R245). -/
theorem runsInstruction_of_fault {s : State} {r : Fault} (h : step s = .fault r) : RunsInstruction s := by
  cases hkind : chooseTransition (currentBoundary s) s.p.i with
  | reset => rw [step_of_reset hkind] at h; cases h
  | nmi => rw [step_of_nmi hkind] at h; cases h
  | irq => rw [step_of_irq hkind] at h; cases h
  | instruction => exact hkind

/-- An undefined opcode is the answer to the fetch's one read (R241). -/
theorem fetchInstruction_invalid {s u : State} {b : Byte} (h : fetchInstruction s = .invalid b u) :
    b = answer s.pc s ∧ u = (fetch8 s).2 := by
  cases ht : dispatchTable (answer s.pc s) with
  | none =>
    rw [fetchInstruction_undefined ht] at h
    cases h
    exact ⟨rfl, rfl⟩
  | some t =>
    cases t with
    | bare i => rw [fetchInstruction_bare ht] at h; cases h
    | byte f => rw [fetchInstruction_byte ht] at h; cases h
    | word f => rw [fetchInstruction_word ht] at h; cases h

/-- The record a fault leaves is that read (R241). -/
theorem bus_of_fault {s t : State} {b : Byte} (h : step s = .fault (.invalidOpcode b t)) : t.bus = [.read s.pc b] := by
  rw [step_of_instruction (runsInstruction_of_fault h)] at h
  obtain ⟨i, u, v, -, -, hrun⟩ | ⟨c, u, hfetch, hrun⟩ := runInstruction_cases (beginTransition s)
  · rw [hrun] at h
    cases h
  · rw [hrun] at h
    cases h
    obtain ⟨rfl, rfl⟩ := fetchInstruction_invalid hfetch
    rfl

/-- Settles O53: the accesses of each kind of transition, and for a fault the one read of the fetch. -/
theorem accessSequenceOfEveryTransition : Obligations.AccessSequenceOfEveryTransition := by
  refine ⟨?_, ?_, ?_, fun s t b => bus_of_fault⟩
  · intro s t u i bytes hruns hdecode hreads hstep
    exact bus_of_accesses (accesses_of_instruction hruns hdecode hreads hstep)
  · rintro s t vector (⟨hkind, rfl⟩ | ⟨hkind, rfl⟩) hstep
    · rw [step_of_nmi hkind] at hstep
      cases hstep
      exact bus_of_accesses (accesses_interruptTransition 0xFFFA#16 (beginTransition s))
    · rw [step_of_irq hkind] at hstep
      cases hstep
      exact bus_of_accesses (accesses_interruptTransition 0xFFFE#16 (beginTransition s))
  · intro s t hkind hstep
    rw [step_of_reset hkind] at hstep
    cases hstep
    exact bus_of_accesses (accesses_resetTransition (beginTransition s))

end Sys2Proof.Machine

/-! PROOF of O1 and O2 (30_encoding.md R80, R82, R92): an entry of the matrix of R87 and the row of the by-operation table of R86
for the same byte build the same instructions, with the same operand bytes. -/

namespace Sys2Proof

/-- The instructions a template stands for, each with its operand bytes, the low byte of a word first (R82, R83). -/
inductive Template.Builds : Template → Instr → List Byte → Prop where
  | bare (i : Instr) : Builds (.bare i) i []
  | byte (f : Byte → Instr) (v : Byte) : Builds (.byte f) (f v) [v]
  | word (f : Word → Instr) (w : Word) : Builds (.word f) (f w) [lowByte w, highByte w]

/-- Filling in a template takes the operand bytes of what it builds off the list, and nothing else. -/
theorem decodeOperand_eq_instr_iff {t : Template} {i : Instr} {l rest : List Byte} :
    decodeOperand t l = .instr i rest ↔ ∃ bytes, t.Builds i bytes ∧ l = bytes ++ rest := by
  constructor
  · intro h
    cases t with
    | bare j =>
      cases h
      exact ⟨[], .bare i, rfl⟩
    | byte f =>
      obtain _ | ⟨b1, l⟩ := l <;> cases h
      exact ⟨[b1], .byte f b1, rfl⟩
    | word f =>
      obtain _ | ⟨b1, _ | ⟨b2, l⟩⟩ := l <;> cases h
      exact ⟨[lowByte (joinBytes b2 b1), highByte (joinBytes b2 b1)], .word f _, by simp⟩
  · rintro ⟨bytes, hbuilds, rfl⟩
    cases hbuilds <;> simp [decodeOperand]

/-- Every instruction is built by the entry of its own opcode byte: the matrix of R87 has all of the table of R86. -/
theorem dispatchTable_opcode (i : Instr) :
    ∃ t, dispatchTable i.opcode = some t ∧ t.Builds i i.operand.bytes := by
  cases i <;> rw [Instr.opcode] <;> refine ⟨_, rfl, ?_⟩ <;> constructor

/-- The instruction a template builds over zero operand bytes; its descriptor is that of all the template builds (R84). -/
def Template.blank : Template → Instr
  | .bare i => i
  | .byte f => f 0
  | .word f => f 0

theorem Template.exists_builds_blank : ∀ t : Template, ∃ bytes, t.Builds t.blank bytes
  | .bare i => ⟨_, .bare i⟩
  | .byte f => ⟨_, .byte f 0⟩
  | .word f => ⟨_, .word f 0⟩

/-- An entry of the matrix of R87 builds only instructions with its byte in the table of R86, all of one descriptor. -/
theorem opcode_of_mem_opcodeRow {h : Nat} {r : Nat × Template} {i : Instr} {bytes : List Byte} (hr : r ∈ opcodeRow h)
    (hbuilds : r.2.Builds i bytes) :
    i.opcode.toNat = r.1 ∧ i.operand.bytes = bytes ∧ i.descriptor = r.2.blank.descriptor := by
  unfold opcodeRow at hr
  split at hr <;> fin_cases hr <;> cases hbuilds <;> exact ⟨rfl, rfl, rfl⟩

/-- The entry of a byte builds only instructions with that opcode byte, and with the operand bytes they are built from. -/
theorem encode_of_builds {b : Byte} {t : Template} {i : Instr} {bytes : List Byte} (ht : dispatchTable b = some t)
    (hbuilds : t.Builds i bytes) : encode i = b :: bytes := by
  obtain ⟨hop, hbytes, -⟩ := opcode_of_mem_opcodeRow (dispatchTable_mem ht) hbuilds
  rw [encode, hbytes, BitVec.eq_of_toNat_eq hop]

/-- The entry of a byte builds instructions of one descriptor (R84). -/
theorem descriptor_of_builds {b : Byte} {t : Template} {i : Instr} {bytes : List Byte} (ht : dispatchTable b = some t)
    (hbuilds : t.Builds i bytes) : i.descriptor = t.blank.descriptor := by
  obtain ⟨-, -, hd⟩ := opcode_of_mem_opcodeRow (dispatchTable_mem ht) hbuilds
  exact hd

/-- Decoding and encoding are inverse to each other (R80, R82, R92). -/
theorem decode_eq_instr_iff {bytes : List Byte} {i : Instr} {rest : List Byte} :
    decode bytes = .instr i rest ↔ encode i ++ rest = bytes := by
  constructor
  · intro h
    cases bytes with
    | nil => cases h
    | cons b l =>
      rw [decode] at h
      cases ht : dispatchTable b with
      | none =>
        rw [ht] at h
        cases h
      | some t =>
        rw [ht] at h
        obtain ⟨bytes, hbuilds, rfl⟩ := decodeOperand_eq_instr_iff.mp h
        rw [encode_of_builds ht hbuilds, List.cons_append]
  · rintro rfl
    obtain ⟨t, ht, hbuilds⟩ := dispatchTable_opcode i
    rw [encode, List.cons_append, decode, ht]
    exact decodeOperand_eq_instr_iff.mpr ⟨_, hbuilds, rfl⟩

/-- Settles O1: the entry of the opcode byte builds the instruction from its operand bytes. -/
theorem decodeOfEncodeIsTheInstruction : Obligations.DecodeOfEncodeIsTheInstruction :=
  fun _ _ => decode_eq_instr_iff.mpr rfl

/-- Settles O2: what the entry of the first byte builds has that opcode byte and the bytes it was built from. -/
theorem encodeOfDecodeIsTheBytes : Obligations.EncodeOfDecodeIsTheBytes :=
  fun _ _ _ => decode_eq_instr_iff.mp

end Sys2Proof

/-! PROOF of O3 (30_encoding.md R85): the table of R86 by operation and format, which both directions are read off. -/

namespace Sys2Proof

/-- The by-operation table of R86: the opcode byte of each format an operation has. -/
def Operation.encodings : Operation → List (Format × Byte)
  | .adc =>
    [(.imm, 0x69), (.zp, 0x65), (.zpx, 0x75), (.abs, 0x6D), (.abx, 0x7D), (.aby, 0x79), (.izx, 0x61), (.izy, 0x71)]
  | .and =>
    [(.imm, 0x29), (.zp, 0x25), (.zpx, 0x35), (.abs, 0x2D), (.abx, 0x3D), (.aby, 0x39), (.izx, 0x21), (.izy, 0x31)]
  | .asl => [(.acc, 0x0A), (.zp, 0x06), (.zpx, 0x16), (.abs, 0x0E), (.abx, 0x1E)]
  | .bcc => [(.rel, 0x90)]
  | .bcs => [(.rel, 0xB0)]
  | .beq => [(.rel, 0xF0)]
  | .bit => [(.zp, 0x24), (.abs, 0x2C)]
  | .bmi => [(.rel, 0x30)]
  | .bne => [(.rel, 0xD0)]
  | .bpl => [(.rel, 0x10)]
  | .brk => [(.imp, 0x00)]
  | .bvc => [(.rel, 0x50)]
  | .bvs => [(.rel, 0x70)]
  | .clc => [(.imp, 0x18)]
  | .cld => [(.imp, 0xD8)]
  | .cli => [(.imp, 0x58)]
  | .clv => [(.imp, 0xB8)]
  | .cmp =>
    [(.imm, 0xC9), (.zp, 0xC5), (.zpx, 0xD5), (.abs, 0xCD), (.abx, 0xDD), (.aby, 0xD9), (.izx, 0xC1), (.izy, 0xD1)]
  | .cpx => [(.imm, 0xE0), (.zp, 0xE4), (.abs, 0xEC)]
  | .cpy => [(.imm, 0xC0), (.zp, 0xC4), (.abs, 0xCC)]
  | .dec => [(.zp, 0xC6), (.zpx, 0xD6), (.abs, 0xCE), (.abx, 0xDE)]
  | .dex => [(.imp, 0xCA)]
  | .dey => [(.imp, 0x88)]
  | .eor =>
    [(.imm, 0x49), (.zp, 0x45), (.zpx, 0x55), (.abs, 0x4D), (.abx, 0x5D), (.aby, 0x59), (.izx, 0x41), (.izy, 0x51)]
  | .inc => [(.zp, 0xE6), (.zpx, 0xF6), (.abs, 0xEE), (.abx, 0xFE)]
  | .inx => [(.imp, 0xE8)]
  | .iny => [(.imp, 0xC8)]
  | .jmp => [(.abs, 0x4C), (.ind, 0x6C)]
  | .jsr => [(.abs, 0x20)]
  | .lda =>
    [(.imm, 0xA9), (.zp, 0xA5), (.zpx, 0xB5), (.abs, 0xAD), (.abx, 0xBD), (.aby, 0xB9), (.izx, 0xA1), (.izy, 0xB1)]
  | .ldx => [(.imm, 0xA2), (.zp, 0xA6), (.zpy, 0xB6), (.abs, 0xAE), (.aby, 0xBE)]
  | .ldy => [(.imm, 0xA0), (.zp, 0xA4), (.zpx, 0xB4), (.abs, 0xAC), (.abx, 0xBC)]
  | .lsr => [(.acc, 0x4A), (.zp, 0x46), (.zpx, 0x56), (.abs, 0x4E), (.abx, 0x5E)]
  | .nop => [(.imp, 0xEA)]
  | .ora =>
    [(.imm, 0x09), (.zp, 0x05), (.zpx, 0x15), (.abs, 0x0D), (.abx, 0x1D), (.aby, 0x19), (.izx, 0x01), (.izy, 0x11)]
  | .pha => [(.imp, 0x48)]
  | .php => [(.imp, 0x08)]
  | .pla => [(.imp, 0x68)]
  | .plp => [(.imp, 0x28)]
  | .rol => [(.acc, 0x2A), (.zp, 0x26), (.zpx, 0x36), (.abs, 0x2E), (.abx, 0x3E)]
  | .ror => [(.acc, 0x6A), (.zp, 0x66), (.zpx, 0x76), (.abs, 0x6E), (.abx, 0x7E)]
  | .rti => [(.imp, 0x40)]
  | .rts => [(.imp, 0x60)]
  | .sbc =>
    [(.imm, 0xE9), (.zp, 0xE5), (.zpx, 0xF5), (.abs, 0xED), (.abx, 0xFD), (.aby, 0xF9), (.izx, 0xE1), (.izy, 0xF1)]
  | .sec => [(.imp, 0x38)]
  | .sed => [(.imp, 0xF8)]
  | .sei => [(.imp, 0x78)]
  | .sta => [(.zp, 0x85), (.zpx, 0x95), (.abs, 0x8D), (.abx, 0x9D), (.aby, 0x99), (.izx, 0x81), (.izy, 0x91)]
  | .stx => [(.zp, 0x86), (.zpy, 0x96), (.abs, 0x8E)]
  | .sty => [(.zp, 0x84), (.zpx, 0x94), (.abs, 0x8C)]
  | .tax => [(.imp, 0xAA)]
  | .tay => [(.imp, 0xA8)]
  | .tsx => [(.imp, 0xBA)]
  | .txa => [(.imp, 0x8A)]
  | .txs => [(.imp, 0x9A)]
  | .tya => [(.imp, 0x98)]

/-- The table of R86 has every instruction, one byte for each of its operation's formats. -/
theorem lookup_encodings (i : Instr) : i.operation.encodings.lookup i.format = some i.opcode := by
  cases i <;> rfl

theorem map_fst_encodings (op : Operation) : op.encodings.map Prod.fst = op.formats := by
  cases op <;> rfl

/-- The table of R86 by operation agrees with the matrix of R87. -/
theorem dispatchTable_of_mem_encodings (op : Operation) :
    ∀ e ∈ op.encodings, (dispatchTable e.2).map (fun t => t.blank.descriptor) = some ⟨op, e.1⟩ := by
  cases op <;> decide

theorem mem_encodings (i : Instr) : (i.format, i.opcode) ∈ i.operation.encodings := by
  obtain ⟨l, r, h, -⟩ := List.lookup_eq_some_iff.mp (lookup_encodings i)
  rw [h]
  exact List.mem_append_right _ List.mem_cons_self

/-- Every entry of the table of R86 is the encoding of an instruction. -/
theorem exists_instr_of_mem_encodings {op : Operation} {f : Format} {b : Byte} (h : (f, b) ∈ op.encodings) :
    ∃ i : Instr, i.descriptor = ⟨op, f⟩ ∧ i.opcode = b := by
  obtain ⟨t, ht, hd⟩ := Option.map_eq_some_iff.mp (dispatchTable_of_mem_encodings op _ h)
  obtain ⟨bytes, hbuilds⟩ := t.exists_builds_blank
  have henc := encode_of_builds ht hbuilds
  exact ⟨t.blank, hd, (List.cons.inj henc).1⟩

/-- The table of R86 is exactly the (format, opcode byte) pairs of each operation. -/
theorem hasEncodings (op : Operation) : Machine.HasEncodings op op.encodings := by
  intro f b
  constructor
  · intro h
    obtain ⟨i, hd, hb⟩ := exists_instr_of_mem_encodings h
    obtain ⟨hop, hf⟩ := Descriptor.mk.inj hd
    exact ⟨i, hop, hf, hb⟩
  · rintro ⟨i, rfl, rfl, rfl⟩
    exact mem_encodings i

/-- An opcode byte and a descriptor determine each other (R84, R85). -/
theorem opcode_eq_iff (i j : Instr) : i.opcode = j.opcode ↔ i.descriptor = j.descriptor := by
  constructor
  · intro h
    obtain ⟨t, ht, hi⟩ := dispatchTable_opcode i
    obtain ⟨u, hu, hj⟩ := dispatchTable_opcode j
    obtain rfl : t = u := by simpa [← h, ht] using hu
    rw [descriptor_of_builds ht hi, descriptor_of_builds ht hj]
  · intro h
    obtain ⟨hop, hf⟩ := Descriptor.mk.inj h
    have hi := lookup_encodings i
    rw [hop, hf, lookup_encodings j] at hi
    exact (Option.some.inj hi).symm

/-- The pairs of R86 are the descriptors of instructions. -/
theorem wellFormed_iff (d : Descriptor) : d.wellFormed = true ↔ ∃ i : Instr, i.descriptor = d := by
  rw [Descriptor.wellFormed, List.contains_iff_mem, ← map_fst_encodings]
  constructor
  · intro h
    obtain ⟨⟨f, b⟩, hmem, hf⟩ := List.mem_map.mp h
    obtain ⟨i, hd, -⟩ := exists_instr_of_mem_encodings hmem
    exact ⟨i, hd.trans (congrArg (Descriptor.mk d.operation) hf)⟩
  · rintro ⟨i, rfl⟩
    exact List.mem_map.mpr ⟨_, mem_encodings i, rfl⟩

/-- A pair that R86 does not list is no instruction's. -/
theorem descriptor_ne_of_not_wellFormed {d : Descriptor} (h : d.wellFormed = false) (i : Instr) : i.descriptor ≠ d := by
  intro hd
  have hwf := (wellFormed_iff d).mpr ⟨i, hd⟩
  rw [h] at hwf
  cases hwf

/-- Settles O3: the matrix gives the descriptor of a byte, the table by operation the byte of a descriptor. -/
theorem eachPairHasExactlyOneOpcode : Obligations.EachPairHasExactlyOneOpcode :=
  ⟨opcode_eq_iff, wellFormed_iff, fun i =>
    ⟨descriptor_ne_of_not_wellFormed (by decide) i, descriptor_ne_of_not_wellFormed (by decide) i,
      descriptor_ne_of_not_wellFormed (by decide) i⟩⟩

end Sys2Proof

/-! PROOF of O4 (30_encoding.md R88): the complement of the matrix, byte by byte, and the fault of the fetch. -/

namespace Sys2Proof.Machine

/-- The matrix of R87 leaves out exactly the bytes of R88. -/
theorem isNone_dispatchTable_iff (b : Byte) : (dispatchTable b).isNone = true ↔ b.toNat ∈ undefinedOpcodes := by
  revert b
  decide

/-- Every byte whose low digit is 3, 7, B or F is undefined (R88). -/
theorem mem_undefinedOpcodes_of_lowDigit (b : Byte) (h : b.toNat % 16 ∈ [3, 7, 0xB, 0xF]) : b.toNat ∈ undefinedOpcodes := by
  revert b
  decide

/-- Fetching a byte with no entry faults (R88, R241). -/
theorem step_of_undefined {s : State} (hruns : RunsInstruction s) (h : dispatchTable (opcodeByte s) = none) :
    step s = .fault (.invalidOpcode (opcodeByte s) (fetch8 (beginTransition s)).2) := by
  have hfetch : fetchInstruction (beginTransition s) = .invalid (opcodeByte s) (fetch8 (beginTransition s)).2 :=
    fetchInstruction_undefined h
  rw [step_of_instruction hruns, runInstruction, hfetch]

/-- Settles O4: the list by evaluation over the bytes, the fault from the fetch. -/
theorem undefinedOpcodesFault : Obligations.UndefinedOpcodesFault := by
  refine ⟨isNone_dispatchTable_iff, rfl, mem_undefinedOpcodes_of_lowDigit, fun s hruns hmem => ?_⟩
  have hnone := Option.isNone_iff_eq_none.mp ((isNone_dispatchTable_iff _).mpr hmem)
  exact ⟨_, step_of_undefined hruns hnone⟩

end Sys2Proof.Machine

/-! PROOF of O5 (30_encoding.md R82, R86): each word is evaluated. -/

namespace Sys2Proof

/-- Settles O5, by decoding each word. -/
theorem writtenOutWordsDecode : Obligations.WrittenOutWordsDecode := by
  refine ⟨?_, ?_, ?_, ?_, ?_, ?_, ?_, ?_, ?_, ?_⟩ <;> decide

end Sys2Proof

/-! PROOF of O6 (30_encoding.md R92, 10_state.md R23, 20_memory.md R59): the fetch reads the bytes of the decoded instruction, and
over plain RAM these are the ones memory holds at PC. -/

namespace Sys2Proof.Machine

/-- A step is exec of the instruction the bytes fetched decode to, with PC past them (R23, R92). -/
theorem step_of_decode {s u : State} {i : Instr} {bytes : List Byte} (hruns : RunsInstruction s)
    (hdecode : decode bytes = .instr i [])
    (hreads : portReads (fetchAddresses s i.format.length) (beginTransition s) = (bytes, u)) :
    step s =
      withCycles (cycleReport i { u with pc := s.pc + BitVec.ofNat 16 i.format.length })
        (exec i { u with pc := s.pc + BitVec.ofNat 16 i.format.length }) := by
  have hfetch : fetchInstruction (beginTransition s) = .instr i { u with pc := s.pc + BitVec.ofNat 16 i.format.length } :=
    fetchInstruction_of_decode hdecode hreads
  rw [step_of_instruction hruns, runInstruction, hfetch]

/-- Reads that plain RAM answers give the bytes memory held before them (R52). -/
theorem portReads_value_of_ram {l : List Word} {s : State} (h : ∀ r ∈ s.responses.take l.length, r = .ram) :
    (portReads l s).1 = l.map (peek s) := by
  induction l generalizing s with
  | nil => rfl
  | cons a l ih =>
    have hnext : NextIsRam s ∧ ∀ r ∈ s.responses.tail.take l.length, r = .ram := by
      cases hr : s.responses with
      | nil => exact ⟨.inl hr, by simp⟩
      | cons r rest =>
        obtain ⟨rfl, hrest⟩ : r = .ram ∧ ∀ r ∈ rest.take l.length, r = .ram := by simpa [hr] using h
        exact ⟨.inr ⟨rest, hr⟩, hrest⟩
    obtain ⟨hram, hrest⟩ := hnext
    rw [portReads, busRead_of_ram hram, ih hrest]
    rfl

/-- An operand has as many bytes as its format gives (R81, R82). -/
theorem length_operandBytes (o : Operand) : o.bytes.length = o.format.operandBytes := by
  cases o with
  | mem m => cases m <;> rfl
  | _ => rfl

/-- The encoding has the length its format gives (R80, R81). -/
theorem length_encode (i : Instr) : (encode i).length = i.format.length := by
  rw [encode, List.length_cons, length_operandBytes, Instr.format, Format.length, Nat.add_comm]

/-- The first bytes memory holds at PC are those at the addresses of a fetch (R59). -/
theorem map_peek_fetchAddresses (s : State) {n : Nat} (hn : n ≤ 3) :
    (fetchAddresses s n).map (peek s) = (bytesAtPc s).take n := by
  have hall : bytesAtPc s = (fetchAddresses s 3).map (peek s) := by rw [fetchAddresses_three]; rfl
  rw [hall, fetchAddresses, fetchAddresses, ← List.map_take, ← List.map_take, List.take_range, Nat.min_eq_left hn]

/-- Over plain RAM, the bytes fetched are those of the instruction memory holds at PC (R52, R59). -/
theorem portReads_fetchAddresses_of_ram {s : State} {i : Instr} {rest : List Byte}
    (hram : ∀ r ∈ s.responses.take i.format.length, r = .ram) (hdecode : decode (bytesAtPc s) = .instr i rest) :
    (portReads (fetchAddresses s i.format.length) s).1 = encode i := by
  have henc : encode i ++ rest = bytesAtPc s := decode_eq_instr_iff.mp hdecode
  have hlen : i.format.length ≤ 3 := by
    have h := congrArg List.length henc
    rw [List.length_append, length_encode, show (bytesAtPc s).length = 3 from rfl] at h
    omega
  rw [portReads_value_of_ram (by simpa [fetchAddresses] using hram), map_peek_fetchAddresses s hlen, ← henc,
    ← length_encode i, List.take_left]

/-- Settles O6: over plain RAM, the bytes fetched are the encoding of what memory's three bytes decode to. -/
theorem stepRunsTheDecodedInstruction : Obligations.StepRunsTheDecodedInstruction := by
  refine ⟨fun s u i bytes hruns hdecode hreads => step_of_decode hruns hdecode hreads, ?_⟩
  intro s i rest hruns hram hdecode
  have hbytes : (portReads (fetchAddresses s i.format.length) (beginTransition s)).1 = encode i :=
    portReads_fetchAddresses_of_ram (s := beginTransition s) hram hdecode
  have halone : decode (encode i) = .instr i [] := decode_eq_instr_iff.mpr (List.append_nil _)
  exact step_of_decode hruns halone (Prod.ext hbytes rfl)

end Sys2Proof.Machine

/-! PROOF of O16 (40_addressing_modes.md R105 to R110, R114): the sums as numbers, and the page comparison said once. -/

namespace Sys2Proof.Machine

/-- Zero-page indexing wraps within page 0 (R106, R107). -/
theorem zeroExtend16_add_toNat (z index : Byte) : (zeroExtend16 (z + index)).toNat = (z.toNat + index.toNat) % 256 := by
  rw [zeroExtend16_toNat, BitVec.toNat_add]

/-- An index is added modulo 65536 (R109, R110, R113). -/
theorem indexed_ea_toNat (base : Word) (index : Byte) (s : State) :
    (indexed base index s).ea.toNat = (base.toNat + index.toNat) % 65536 := by
  rw [indexed, BitVec.toNat_add, zeroExtend16_toNat]

/-- An index crosses a page when the sum lies in another page than the base (R109, R110, R113, R286). -/
theorem indexed_pageCross (base : Word) (index : Byte) (s : State) :
    (indexed base index s).pageCross = decide (base.toNat / 256 ≠ (indexed base index s).ea.toNat / 256) :=
  crossesPage_eq _ _

/-- A displacement is added as a signed number modulo 65536 (R114). -/
theorem add_signExtend16_toNat (a : Word) (d : Byte) :
    ((a + signExtend16 d).toNat : Int) = ((a.toNat : Int) + d.toInt) % 65536 := by
  have hd : ((signExtend16 d).toNat : Int) = d.toInt % 65536 := by
    rw [signExtend16, BitVec.signExtend, BitVec.toNat_ofInt]
    omega
  rw [BitVec.toNat_add]
  omega

/-- The direct formats read no pointer, so they leave the state as it is (R100). -/
theorem resolve_state_of_no_pointer {m : MemOperand} {s : State} (h : pointerAddresses m s = []) :
    (resolve m s).state = s := by
  rw [resolve_state, h, portReads]

/-- Settles O16, format by format. -/
theorem directEffectiveAddresses : Obligations.DirectEffectiveAddresses := by
  refine ⟨fun z s => ⟨zeroExtend16_toNat z, rfl⟩, fun z s => ⟨zeroExtend16_add_toNat z s.x, rfl⟩,
    fun z s => ⟨zeroExtend16_add_toNat z s.y, rfl⟩, fun w s => ⟨rfl, rfl⟩,
    fun w s => ⟨indexed_ea_toNat w s.x s, indexed_pageCross w s.x s⟩,
    fun w s => ⟨indexed_ea_toNat w s.y s, indexed_pageCross w s.y s⟩,
    fun d s => ⟨add_signExtend16_toNat s.pc d, crossesPage_eq _ _⟩, ?_⟩
  intro z d w s m hm
  have hnone : pointerAddresses m s = [] := by
    simp only [List.mem_cons, List.not_mem_nil, or_false] at hm
    obtain rfl | rfl | rfl | rfl | rfl | rfl | rfl := hm <;> rfl
  exact resolve_state_of_no_pointer hnone

end Sys2Proof.Machine

/-! PROOF of O17 (40_addressing_modes.md R111 to R113): where the two bytes of a pointer lie, and the pair of reads they take. -/

namespace Sys2Proof.Machine

/-- Masking the two halves of a word picks its high byte and its low byte: bits 15:8 of one, bits 7:0 of the other (R9). -/
theorem masks_eq_joinBytes (a b : Word) :
    (a &&& 0xFF00#16) ||| (b &&& 0x00FF#16) = joinBytes (highByte a) (lowByte b) := by
  apply BitVec.eq_of_getLsbD_eq
  intro i hi
  interval_cases i <;> simp [joinBytes, highByte, lowByte]

/-- The next address within a page has the page's high byte, and its low byte wraps (R111). -/
theorem nextInPage_eq_joinBytes (p : Word) : nextInPage p = joinBytes (highByte p) (lowByte p + 1#8) := by
  have hlow : lowByte (p + 1) = lowByte p + 1#8 := BitVec.setWidth_add p 1 (by decide)
  rw [nextInPage, masks_eq_joinBytes, hlow]

/-- At $xxFF the next address within the page is $xx00 (R111). -/
theorem nextInPage_toNat (p : Word) : (nextInPage p).toNat = p.toNat / 256 * 256 + (p.toNat + 1) % 256 := by
  rw [nextInPage_eq_joinBytes, joinBytes_toNat, highByte_toNat, BitVec.toNat_add, lowByte_toNat,
    show (1#8).toNat = 1 from rfl]
  omega

/-- The address in page 0 with a byte's value is that byte's zero extension (R10). -/
theorem eq_zeroExtend16_of_toNat {a : Word} {v : Byte} (h : a.toNat = v.toNat) : a = zeroExtend16 v :=
  BitVec.eq_of_toNat_eq (h.trans (zeroExtend16_toNat v).symm)

/-- A pair is two reads, low byte first, and its value joins their answers (R53, R59). -/
theorem portReads_of_readPair (lo hi : Word) (s : State) :
    ∃ l h, portReads [lo, hi] s = ([l, h], (readPair lo hi s).2) ∧ (readPair lo hi s).1 = joinBytes h l :=
  ⟨_, _, rfl, rfl⟩

/-- A pointer in page 0 is the pair of reads at `z` and at the byte after it modulo 256 (R55). -/
theorem readZeroPagePointer_of_toNat {z : Byte} {lo hi : Word} (hlo : lo.toNat = z.toNat)
    (hhi : hi.toNat = (z.toNat + 1) % 256) (s : State) : readZeroPagePointer z s = readPair lo hi s := by
  have hnext : hi.toNat = (z + 1#8).toNat := by rw [hhi, BitVec.toNat_add]; rfl
  rw [readZeroPagePointer, eq_zeroExtend16_of_toNat hlo, eq_zeroExtend16_of_toNat hnext]

/-- Settles O17: each pointer is a pair of reads, to which (zp),Y adds the index. -/
theorem indirectEffectiveAddresses : Obligations.IndirectEffectiveAddresses := by
  refine ⟨fun p s => ⟨nextInPage_toNat p, rfl, portReads_of_readPair p (nextInPage p) s⟩, ?izx, ?izy⟩
  case izx =>
    intro z s lo hi hlo hhi
    have hsum : (z + s.x).toNat = (z.toNat + s.x.toNat) % 256 := BitVec.toNat_add z s.x
    have hpair : readZeroPagePointer (z + s.x) s = readPair lo hi s :=
      readZeroPagePointer_of_toNat (hlo.trans hsum.symm) (by omega) s
    refine ⟨rfl, ?_⟩
    rw [resolve, hpair]
    exact portReads_of_readPair lo hi s
  case izy =>
    intro z s lo hi hlo hhi
    obtain ⟨l, h, hreads, hvalue⟩ := portReads_of_readPair lo hi s
    rw [resolve, readZeroPagePointer_of_toNat hlo hhi]
    refine ⟨l, h, hreads, ?_⟩
    rw [← hvalue]
    exact ⟨indexed_ea_toNat _ _ _, indexed_pageCross _ _ _⟩

end Sys2Proof.Machine

/-! PROOF of O18 (40_addressing_modes.md R101, R104): an operand's read touches the memory port alone. -/

namespace Sys2Proof.Machine

/-- The state after an operand has been read is the state its reads leave (R101). -/
theorem afterOperand_eq (src : Source) (s : State) : afterOperand src s = (readSource src s).2 :=
  readSource_withPort src s

/-- Settles O18, by the kind of the operand. -/
theorem operandByteIsImmediateOrMemory : Obligations.OperandByteIsImmediateOrMemory := by
  refine ⟨fun v s => ⟨readSource_value_imm v s, ?imm⟩, fun m s => ⟨?byte, ?mem⟩, fun src s => ?pair⟩
  case imm => rw [afterOperand_eq, readSource_state_imm]
  case byte => rw [operandByte, readSource_mem_eq, busRead_value]
  case mem => rw [afterOperand_eq, readSource_mem_eq]
  case pair => rw [afterOperand_eq, operandByte]

end Sys2Proof.Machine

/-! PROOF of O20 and O21 (41_load_store_transfer.md R131 to R136): a load or a store is found among the meanings by its
operation, and the law of its shared operation is the statement. -/

namespace Sys2Proof.Machine

/-- In a list whose first parts are all different, a first part has one second part. -/
theorem snd_eq_of_pair_mem {α β : Type} {l : List (α × β)} (hl : (l.map Prod.fst).Nodup) {a : α} {b c : β}
    (hb : (a, b) ∈ l) (hc : (a, c) ∈ l) : b = c :=
  congrArg Prod.snd (List.inj_on_of_nodup_map hl hb hc rfl)

/-- The only meaning of LDA, LDX and LDY is the load into their register; every other meaning names other operations. -/
theorem Meaning.eq_loadInto {i : Instr} {f : State → State} {r : Reg} (h : Meaning i f)
    (op : (i.operation, r) ∈ [(.lda, .a), (.ldx, .x), (.ldy, .y)]) :
    ∃ src : Source, i.operand = src.operand ∧ f = loadInto r src := by
  cases h with
  | load q src names operand =>
    obtain rfl : q = r := snd_eq_of_pair_mem (by decide) names op
    exact ⟨src, operand, rfl⟩
  | _ => grind [conditionOf]

/-- The only meaning of STA, STX and STY is the store of their register; every other meaning names other operations. -/
theorem Meaning.eq_storeFrom {i : Instr} {f : State → State} {r : Reg} (h : Meaning i f)
    (op : (i.operation, r) ∈ [(.sta, .a), (.stx, .x), (.sty, .y)]) :
    ∃ m : MemOperand, i.operand = .mem m ∧ f = storeFrom r m := by
  cases h with
  | store q m names operand =>
    obtain rfl : q = r := snd_eq_of_pair_mem (by decide) names op
    exact ⟨m, operand, rfl⟩
  | _ => grind [conditionOf]

/-- A load completes in every format: its register, N and Z from the operand byte, nothing else but the operand's reads
(R131 to R133). -/
theorem exec_load {i : Instr} {r : Reg} (op : (i.operation, r) ∈ [(.lda, .a), (.ldx, .x), (.ldy, .y)]) (s : State) :
    ∃ src : Source, i.operand = src.operand ∧
      exec i s = .next (((afterOperand src s).setReg r (operandByte src s)).setP (setNZ (operandByte src s) s.p)) := by
  obtain ⟨f, hf, hexec⟩ := exec_meaning i
  obtain ⟨src, operand, rfl⟩ := hf.eq_loadInto op
  exact ⟨src, operand, (hexec s).trans (congrArg _ (loadInto_eq r src s))⟩

/-- A store completes in every format: one write of its register at the effective address (R134 to R136). -/
theorem exec_store {i : Instr} {r : Reg} (op : (i.operation, r) ∈ [(.sta, .a), (.stx, .x), (.sty, .y)]) (s : State) :
    ∃ m : MemOperand, i.operand = .mem m ∧
      exec i s = .next (withPort s (busWrite (resolve m s).ea (s.reg r) (resolve m s).state)) := by
  obtain ⟨f, hf, hexec⟩ := exec_meaning i
  obtain ⟨m, operand, rfl⟩ := hf.eq_storeFrom op
  exact ⟨m, operand, (hexec s).trans (congrArg _ (storeFrom_eq r m s))⟩

/-- Settles O20: the encodings are rows of R86, and the effect is that of a load, register by register. -/
theorem loadsWriteRegisterAndSetNZ : Obligations.LoadsWriteRegisterAndSetNZ := by
  refine ⟨hasEncodings .lda, hasEncodings .ldx, hasEncodings .ldy, ?lda, ?ldx, ?ldy⟩
  case lda => exact fun i s op => exec_load (r := .a) (by simp [op]) s
  case ldx => exact fun i s op => exec_load (r := .x) (by simp [op]) s
  case ldy => exact fun i s op => exec_load (r := .y) (by simp [op]) s

/-- Settles O21: the encodings are rows of R86, and the effect is that of a store, register by register. -/
theorem storesWriteOneByte : Obligations.StoresWriteOneByte := by
  refine ⟨hasEncodings .sta, hasEncodings .stx, hasEncodings .sty, ?sta, ?stx, ?sty⟩
  case sta => exact fun i s op => exec_store (r := .a) (by simp [op]) s
  case stx => exact fun i s op => exec_store (r := .x) (by simp [op]) s
  case sty => exact fun i s op => exec_store (r := .y) (by simp [op]) s

end Sys2Proof.Machine

/-! PROOF of O22 and O23 (41_load_store_transfer.md R137 to R142): the transfers by their definitions; how far any other
instruction than TXS moves S, meaning by meaning. -/

namespace Sys2Proof.Machine

/-- Settles O22: the encodings are rows of R86, and each transfer is its definition. -/
theorem transfersCopyAndSetNZ : Obligations.TransfersCopyAndSetNZ :=
  ⟨hasEncodings .tax, hasEncodings .tay, hasEncodings .txa, hasEncodings .tya, hasEncodings .tsx,
    fun _ => rfl, fun _ => rfl, fun _ => rfl, fun _ => rfl, fun _ => rfl⟩

/-- What pushes and pulls can move S by: nothing, one to three pulls, or one to three pushes (R210, R211). -/
def stackMoves : List Byte := [0#8, 1#8, 2#8, 3#8, 0xFF#8, 0xFE#8, 0xFD#8]

theorem sub_mem_stackMoves_of_eq {u v : Byte} (h : u = v) : u - v ∈ stackMoves := by
  simp [h, stackMoves]

theorem sub_mem_stackMoves_of_pulls {u v : Byte} {n : Nat} (h : u = v + BitVec.ofNat 8 n) (hn : n ≤ 3 := by decide) :
    u - v ∈ stackMoves := by
  rw [h, add_sub_cancel_left]
  interval_cases n <;> decide

theorem sub_mem_stackMoves_of_pushes {u v : Byte} {n : Nat} (h : u = v - BitVec.ofNat 8 n) (hn : n ≤ 3 := by decide) :
    u - v ∈ stackMoves := by
  rw [h, sub_sub_cancel_left]
  interval_cases n <;> decide

/-- A read-modify-write leaves S: its place is A or memory (R170). -/
theorem readModifyWrite_sp (f : Modifier) (pl : Place) (s : State) : (readModifyWrite f pl s).sp = s.sp := by
  cases pl with
  | acc => rfl
  | mem m => simp [readModifyWrite_mem]

/-- Every meaning but that of TXS moves S by its pushes or pulls, or not at all (R142, R22). -/
theorem sp_of_meaning {i : Instr} {f : State → State} (h : Meaning i f) (op : i.operation ≠ .txs) (s : State) :
    (f s).sp - s.sp ∈ stackMoves := by
  cases h with
  | transferXToS names => exact absurd names op
  | pushAccumulator | pushStatus => exact sub_mem_stackMoves_of_pushes (n := 1) rfl
  | pullAccumulator | pullStatus => exact sub_mem_stackMoves_of_pulls (n := 1) rfl
  | jumpToSubroutine addr => exact sub_mem_stackMoves_of_pushes (n := 2) (by simp [jumpToSubroutine_eq, sub_sub])
  | returnFromSubroutine => exact sub_mem_stackMoves_of_pulls (n := 2) (by simp [returnFromSubroutine_eq, add_assoc])
  | softwareInterrupt =>
    exact sub_mem_stackMoves_of_pushes (n := 3) (by simp [softwareInterrupt, takeInterrupt_port])
  | returnFromInterrupt => exact sub_mem_stackMoves_of_pulls (n := 3) (by simp [returnFromInterrupt, add_assoc])
  | load r src names =>
    have hr : r ≠ .sp := by rintro rfl; simp at names
    exact sub_mem_stackMoves_of_eq (by simp [loadInto_eq, hr])
  | transfer src dst _ names =>
    have hdst : dst ≠ .sp := by rintro rfl; simp at names
    exact sub_mem_stackMoves_of_eq (by simp [transfer, hdst])
  | stepRegister g r _ names =>
    have hr : r ≠ .sp := by rintro rfl; simp at names
    exact sub_mem_stackMoves_of_eq (by simp [stepRegister, hr])
  | stepMemory | shift => exact sub_mem_stackMoves_of_eq (readModifyWrite_sp _ _ s)
  | add src => exact sub_mem_stackMoves_of_eq (by simp [addWithCarry_eq, accumulate])
  | subtract src => exact sub_mem_stackMoves_of_eq (by simp [subtractWithBorrow_eq, accumulate])
  | store | logical | bitTest | compare | branch | jump | setFlag | nothing =>
    exact sub_mem_stackMoves_of_eq
      (by simp [storeFrom_eq, logical_eq, bitTest_eq, compareRegister_eq, branchIf_eq, jumpTo_eq])

/-- Settles O23: TXS is its definition, and any other instruction is a meaning that moves S by pushes or pulls. -/
theorem txsWritesNoFlag : Obligations.TxsWritesNoFlag := by
  refine ⟨hasEncodings .txs, fun _ => rfl, ?_⟩
  intro i s t h op
  obtain ⟨f, hf, hexec⟩ := exec_meaning i
  obtain rfl : f s = t := by simpa [hexec] using h
  exact sp_of_meaning hf op s

end Sys2Proof.Machine

/-! PROOF of O24 and O25 (42_logical_incdec.md R150 to R153): AND, ORA, EOR and BIT are found among the meanings by their
operation, as the loads are, and the law of their shared operation is the statement. -/

namespace Sys2Proof.Machine

/-- The bitwise function of each logical operation (R150 to R152). -/
def logicalFunctions : List (Operation × (Byte → Byte → Byte)) :=
  [(.and, fun a m => a &&& m), (.ora, fun a m => a ||| m), (.eor, fun a m => a ^^^ m)]

/-- The only meaning of AND, ORA and EOR is the logical operation with their function; every other meaning names other
operations. -/
theorem Meaning.eq_logical {i : Instr} {f : State → State} {g : Byte → Byte → Byte} (h : Meaning i f)
    (op : (i.operation, g) ∈ logicalFunctions) : ∃ src : Source, i.operand = src.operand ∧ f = Machine.logical g src := by
  cases h with
  | logical k src operand names =>
    have hk : (i.operation, k) ∈ logicalFunctions := by simpa [logicalFunctions] using names
    obtain rfl : k = g := snd_eq_of_pair_mem (by decide) hk op
    exact ⟨src, operand, rfl⟩
  | _ => grind [conditionOf, logicalFunctions]

/-- The only meaning of BIT is the bit test; every other meaning names other operations. -/
theorem Meaning.eq_bitTest {i : Instr} {f : State → State} (h : Meaning i f) (op : i.operation = .bit) :
    ∃ m : MemOperand, i.operand = .mem m ∧ f = Machine.bitTest m := by
  cases h with
  | bitTest m _ operand => exact ⟨m, operand, rfl⟩
  | _ => grind [conditionOf]

/-- A logical operation completes in every format: A the function of A and the operand byte, N and Z of it, nothing else
but the operand's reads (R150 to R152). -/
theorem exec_logical {i : Instr} {g : Byte → Byte → Byte} (op : (i.operation, g) ∈ logicalFunctions) (s : State) :
    ∃ src : Source, i.operand = src.operand ∧
      exec i s = .next (((afterOperand src s).setReg .a (g s.a (operandByte src s))).setP
        (setNZ (g s.a (operandByte src s)) s.p)) := by
  obtain ⟨f, hf, hexec⟩ := exec_meaning i
  obtain ⟨src, operand, rfl⟩ := hf.eq_logical op
  exact ⟨src, operand, (hexec s).trans (congrArg _ (logical_eq g src s))⟩

/-- Settles O24: the encodings are rows of R86, and the effect is that of a logical operation, function by function. -/
theorem logicalOperationsOnA : Obligations.LogicalOperationsOnA := by
  refine ⟨hasEncodings .and, hasEncodings .ora, hasEncodings .eor, ?and, ?ora, ?eor⟩
  case and => exact fun i s op => exec_logical (g := fun a m => a &&& m) (by simp [op, logicalFunctions]) s
  case ora => exact fun i s op => exec_logical (g := fun a m => a ||| m) (by simp [op, logicalFunctions]) s
  case eor => exact fun i s op => exec_logical (g := fun a m => a ^^^ m) (by simp [op, logicalFunctions]) s

/-- Settles O25: the encodings are rows of R86, and BIT changes the flags R153 names and the memory port alone. -/
theorem bitTestsMemory : Obligations.BitTestsMemory := by
  refine ⟨hasEncodings .bit, fun i s op => ?_⟩
  obtain ⟨f, hf, hexec⟩ := exec_meaning i
  obtain ⟨m, operand, rfl⟩ := hf.eq_bitTest op
  exact ⟨m, operand, (hexec s).trans (congrArg _ (bitTest_eq m s))⟩

end Sys2Proof.Machine

/-! PROOF of O26 and O27 (42_logical_incdec.md R154 to R159): plus one and minus one are additions modulo 256, of 1 and of
255, to a byte of memory or to an index register. -/

namespace Sys2Proof.Machine

/-- The modifier that adds `k` modulo 256, with SetNZ (R154 to R159). -/
def addModulo (k : Nat) : Modifier :=
  fun m p => (BitVec.ofNat 8 (m.toNat + k), setNZ (BitVec.ofNat 8 (m.toNat + k)) p)

theorem increment_eq_addModulo : increment = addModulo 1 := rfl

theorem decrement_eq_addModulo : decrement = addModulo 255 := by
  funext m p
  have hsub : m - 1#8 = BitVec.ofNat 8 (m.toNat + 255) := by bv_omega
  rw [decrement, addModulo, hsub]

/-- The modifier of each operation that steps a byte of memory (R154, R155). -/
def memoryModifiers : List (Operation × Modifier) := [(.inc, addModulo 1), (.dec, addModulo 255)]

/-- The only meaning of INC and DEC is the read-modify-write with their modifier; every other meaning names other
operations. -/
theorem Meaning.eq_stepMemory {i : Instr} {f : State → State} {g : Modifier} (h : Meaning i f)
    (op : (i.operation, g) ∈ memoryModifiers) :
    ∃ m : MemOperand, i.operand = .mem m ∧ f = readModifyWrite g (.mem m) := by
  cases h with
  | stepMemory k m operand names =>
    have hk : (i.operation, k) ∈ memoryModifiers := by
      simpa [memoryModifiers, increment_eq_addModulo, decrement_eq_addModulo] using names
    obtain rfl : k = g := snd_eq_of_pair_mem (by decide) hk op
    exact ⟨m, operand, rfl⟩
  | _ => grind [conditionOf, memoryModifiers]

/-- INC and DEC complete in every format: after the operand's reads, one write of the modified byte at the same address,
the modifier's flags, and nothing else (R154, R155, R61). -/
theorem exec_stepMemory {i : Instr} {g : Modifier} (op : (i.operation, g) ∈ memoryModifiers) (s : State) :
    ∃ m : MemOperand, i.operand = .mem m ∧
      exec i s = .next
        ((withPort s
          (busWrite (resolve m s).ea (g (operandByte (.mem m) s) s.p).1 (afterOperand (.mem m) s))).setP
          (g (operandByte (.mem m) s) s.p).2) := by
  obtain ⟨f, hf, hexec⟩ := exec_meaning i
  obtain ⟨m, operand, rfl⟩ := hf.eq_stepMemory op
  refine ⟨m, operand, ?_⟩
  rw [hexec, readModifyWrite_mem, operandByte, afterOperand_eq]

/-- Settles O26: the encodings are rows of R86, and the effect is the addition of 1 or of 255 modulo 256 to the byte. -/
theorem incDecMemoryByOne : Obligations.IncDecMemoryByOne := by
  refine ⟨hasEncodings .inc, hasEncodings .dec, ?inc, ?dec⟩
  case inc => exact fun i s op => exec_stepMemory (g := addModulo 1) (by simp [op, memoryModifiers]) s
  case dec => exact fun i s op => exec_stepMemory (g := addModulo 255) (by simp [op, memoryModifiers]) s

/-- Settles O27: the encodings are rows of R86, INX and INY are their definitions, and DEX and DEY are them with the
difference as a sum modulo 256. -/
theorem indexRegistersByOne : Obligations.IndexRegistersByOne := by
  have hminus (r : Reg) (s : State) : stepRegister decrement r s = stepRegister (addModulo 255) r s := by
    rw [decrement_eq_addModulo]
  refine ⟨hasEncodings .inx, hasEncodings .iny, hasEncodings .dex, hasEncodings .dey, fun _ => rfl, fun _ => rfl,
    ?dex, ?dey⟩
  case dex => exact fun s => congrArg Host.Outcome.next (hminus .x s)
  case dey => exact fun s => congrArg Host.Outcome.next (hminus .y s)

end Sys2Proof.Machine

/-! PROOF of O30 (43_arithmetic.md R163): the overflow formula says what bit 7 of three bytes says, and with bit 7 read as the
sign that is the signed sum out of range. -/

namespace Sys2Proof.Machine

/-- Bit 7 of a byte tells the upper half of its values (R163). -/
theorem getLsbD_seven (v : Byte) : v.getLsbD 7 = decide (128 ≤ v.toNat) := BitVec.msb_eq_decide v

/-- The formula of R163 in words: `a` and `m` have one sign, and `r` the other. -/
theorem overflows_iff (a m r : Byte) :
    overflows a m r = true ↔ a.getLsbD 7 = m.getLsbD 7 ∧ r.getLsbD 7 ≠ a.getLsbD 7 := by
  have hmask (v : Byte) : (v &&& 0x80#8) ≠ 0#8 ↔ v.getLsbD 7 = true := by
    rw [show (0x80#8) = BitVec.twoPow 8 7 from rfl, BitVec.and_twoPow]
    split <;> simp_all
  rw [overflows, bne_iff_ne, hmask, ne_comm]
  simp

theorem addBin_r_toNat (a m : Byte) (cin : Bool) :
    (addBin a m cin).r.toNat = (a.toNat + m.toNat + cin.toNat) % 256 := BitVec.toNat_ofNat ..

theorem addBin_v_iff (a m : Byte) (cin : Bool) :
    (addBin a m cin).v = true ↔ a.getLsbD 7 = m.getLsbD 7 ∧ (addBin a m cin).r.getLsbD 7 ≠ a.getLsbD 7 :=
  overflows_iff a m _

/-- The overflow of a sum is the signed sum out of range (R163). -/
theorem addBin_v_iff_outOfRange (a m : Byte) (cin : Bool) :
    (addBin a m cin).v = true ↔
      ¬(-128 ≤ a.toInt + m.toInt + cin.toNat ∧ a.toInt + m.toInt + cin.toNat ≤ 127) := by
  have hcin := cin.toNat_le
  rw [addBin_v_iff]
  simp only [getLsbD_seven, addBin_r_toNat, BitVec.toInt_eq_toNat_cond, ne_eq, decide_eq_decide]
  omega

/-- The one's complement of a byte, as SBC takes it (R162). -/
theorem complement_toNat (m : Byte) : (m ^^^ 0xFF#8).toNat = 255 - m.toNat := by
  rw [show (0xFF#8) = BitVec.allOnes 8 from rfl, BitVec.xor_allOnes, BitVec.toNat_not]

theorem complement_toInt (m : Byte) : (m ^^^ 0xFF#8).toInt = -1 - m.toInt := by
  rw [BitVec.toInt_eq_toNat_cond, BitVec.toInt_eq_toNat_cond, complement_toNat]
  omega

/-- Settles O30: `r`, `c`, `z` and `n` are their definitions; the signed difference of SBC is the signed sum with the
complement. -/
theorem binaryAdditionAndOverflow : Obligations.BinaryAdditionAndOverflow := by
  intro a m cin
  refine ⟨addBin_r_toNat a m cin, rfl, rfl, rfl, addBin_v_iff a m cin, addBin_v_iff_outOfRange a m cin, ?difference⟩
  case difference =>
    have hsum : a.toInt + (m ^^^ 0xFF#8).toInt + cin.toNat = a.toInt - m.toInt - (1 - cin.toNat) := by
      rw [complement_toInt]
      ring
    rw [addBin_v_iff_outOfRange, hsum]

end Sys2Proof.Machine

/-! PROOF of O28, O29 and O33 (43_arithmetic.md R161, R162, R166): ADC and SBC are found among the meanings by their operation,
and the laws of their shared operations are the statements; the binary difference is read off the sum with the complement. -/

namespace Sys2Proof.Machine

/-- The only meaning of ADC is the addition; every other meaning names other operations. -/
theorem Meaning.eq_addWithCarry {i : Instr} {f : State → State} (h : Meaning i f) (op : i.operation = .adc) :
    ∃ src : Source, i.operand = src.operand ∧ f = addWithCarry src := by
  cases h with
  | add src _ operand => exact ⟨src, operand, rfl⟩
  | _ => grind [conditionOf]

/-- The only meaning of SBC is the subtraction; every other meaning names other operations. -/
theorem Meaning.eq_subtractWithBorrow {i : Instr} {f : State → State} (h : Meaning i f) (op : i.operation = .sbc) :
    ∃ src : Source, i.operand = src.operand ∧ f = subtractWithBorrow src := by
  cases h with
  | subtract src _ operand => exact ⟨src, operand, rfl⟩
  | _ => grind [conditionOf]

/-- Settles O28: the encodings are rows of R86, and ADC writes the sum that D selects. -/
theorem adcAddsByDecimalFlag : Obligations.AdcAddsByDecimalFlag := by
  refine ⟨hasEncodings .adc, fun i s op => ?_⟩
  obtain ⟨f, hf, hexec⟩ := exec_meaning i
  obtain ⟨src, operand, rfl⟩ := hf.eq_addWithCarry op
  refine ⟨src, operand, fun r hr => ?_⟩
  rw [hexec, addWithCarry_eq, hr]
  rfl

/-- The binary difference of R162, modulo 256. -/
theorem addBin_complement_r (a m : Byte) (c : Bool) :
    ((addBin a (m ^^^ 0xFF#8) c).r.toNat : Int) = ((a.toNat : Int) - m.toNat - (1 - c.toNat)) % 256 := by
  rw [addBin_r_toNat, complement_toNat]
  omega

/-- The carry of the binary difference says that no borrow occurred (R162). -/
theorem addBin_complement_c (a m : Byte) (c : Bool) :
    (addBin a (m ^^^ 0xFF#8) c).c = decide (0 ≤ (a.toNat : Int) - m.toNat - (1 - c.toNat)) := by
  simp only [addBin, complement_toNat, decide_eq_decide]
  omega

/-- Settles O29: the encodings are rows of R86, SBC writes the difference that D selects, and the binary one is the sum with
the complement. -/
theorem sbcSubtractsByDecimalFlag : Obligations.SbcSubtractsByDecimalFlag := by
  refine ⟨hasEncodings .sbc, fun i s op => ?effect, fun a m c => ⟨addBin_complement_r a m c, addBin_complement_c a m c⟩⟩
  case effect =>
    obtain ⟨f, hf, hexec⟩ := exec_meaning i
    obtain ⟨src, operand, rfl⟩ := hf.eq_subtractWithBorrow op
    refine ⟨src, operand, fun r hr => ?_⟩
    rw [hexec, subtractWithBorrow_eq, hr]
    rfl

/-- Taking back what was added: the borrow of the difference is the carry into the sum (R166 (f)). -/
theorem addBin_complement_addBin (a b : Byte) (c : Bool) :
    (addBin (addBin a b c).r (b ^^^ 0xFF#8) (!c)).r = a := by
  have hnot : (!c).toNat = 1 - c.toNat := by cases c <;> rfl
  have hcin := c.toNat_le
  apply BitVec.eq_of_toNat_eq
  rw [addBin_r_toNat, addBin_r_toNat, complement_toNat, hnot]
  omega

/-- Settles O33: with D = 0 both results are binary, and they undo each other. -/
theorem adcThenSbcRestoresA : Obligations.AdcThenSbcRestoresA := by
  intro s t u b hd hadc hsbc
  obtain rfl : addWithCarry (.imm b) s = t := Host.Outcome.next.inj hadc
  obtain rfl : subtractWithBorrow (.imm b) _ = u := Host.Outcome.next.inj hsbc
  simpa [addWithCarry_eq, subtractWithBorrow_eq, accumulate, hd] using addBin_complement_addBin s.a b s.p.c

end Sys2Proof.Machine

/-! PROOF of O31 and O32 (43_arithmetic.md R164, R165): the masks of the procedures pick the digits, and a corrected sum or
difference of BCD bytes is its decimal value, the hundreds in bits 8 and up. -/

namespace Sys2Proof.Machine

/-- The mask of the low digit (R164). -/
theorem and_0F_toNat (v : Byte) : (v &&& 0x0F#8).toNat = lowDigit v :=
  (BitVec.toNat_and ..).trans (Nat.and_two_pow_sub_one_eq_mod v.toNat 4)

/-- The mask of the high digit (R164). -/
theorem and_F0_toNat (v : Byte) : (v &&& 0xF0#8).toNat = highDigit v := by
  have hmask : v &&& 0xF0#8 = v >>> 4 <<< 4 := by
    apply BitVec.eq_of_getLsbD_eq
    intro i hi
    interval_cases i <;> simp
  have hv := v.isLt
  rw [hmask, BitVec.toNat_shiftLeft, BitVec.toNat_ushiftRight, Nat.shiftRight_eq_div_pow, Nat.shiftLeft_eq, highDigit]
  omega

theorem bcd_toNat {x : Nat} (hx : x < 100) : (bcd x).toNat = x / 10 * 16 + x % 10 := by
  rw [bcd, BitVec.toNat_ofNat]
  omega

theorem lowDigit_bcd {x : Nat} (hx : x < 100) : lowDigit (bcd x) = x % 10 := by
  rw [lowDigit, bcd_toNat hx]
  omega

theorem highDigit_bcd {x : Nat} (hx : x < 100) : highDigit (bcd x) = x / 10 * 16 := by
  rw [highDigit, bcd_toNat hx]
  omega

/-- The sum `t` of R164 after both corrections. -/
def decimalSum (a m : Byte) (cin : Bool) : Nat :=
  adjustHighSum (highDigit a + highDigit m + adjustLowSum (lowDigit a + lowDigit m + cin.toNat))

theorem addDec_r_toNat (a m : Byte) (cin : Bool) : (addDec a m cin).r.toNat = decimalSum a m cin % 256 :=
  BitVec.toNat_ofNat ..

theorem addDec_c (a m : Byte) (cin : Bool) : (addDec a m cin).c = decide (0x100 ≤ decimalSum a m cin) := rfl

/-- On BCD operands the corrected sum shows the decimal sum, digit by digit, whether or not each digit carries (R164). -/
theorem decimalSum_bcd {x y : Nat} (hx : x < 100) (hy : y < 100) (cin : Bool) :
    decimalSum (bcd x) (bcd y) cin =
      (x + y + cin.toNat) / 100 * 256 + ((x + y + cin.toNat) % 100 / 10 * 16 + (x + y + cin.toNat) % 10) := by
  have hcin := cin.toNat_le
  rw [decimalSum, lowDigit_bcd hx, lowDigit_bcd hy, highDigit_bcd hx, highDigit_bcd hy, adjustLowSum, adjustHighSum]
  split_ifs <;> omega

theorem addDec_bcd {x y : Nat} (hx : x < 100) (hy : y < 100) (cin : Bool) :
    (addDec (bcd x) (bcd y) cin).r = bcd ((x + y + cin.toNat) % 100) ∧
      (addDec (bcd x) (bcd y) cin).c = decide (100 ≤ x + y + cin.toNat) := by
  constructor
  · apply BitVec.eq_of_toNat_eq
    rw [addDec_r_toNat, decimalSum_bcd hx hy, bcd_toNat (Nat.mod_lt _ (by decide))]
    omega
  · rw [addDec_c, decimalSum_bcd hx hy, decide_eq_decide]
    omega

/-- Settles O31: the procedure by the masks, decimal addition by the digits, the corner cases by evaluation. -/
theorem decimalAdditionFollowsTheProcedure : Obligations.DecimalAdditionFollowsTheProcedure := by
  refine ⟨?procedure, fun x y cin hx hy => addDec_bcd hx hy cin, by decide⟩
  case procedure =>
    intro a m cin al t hal ht
    simp only [and_0F_toNat, and_F0_toNat] at hal ht
    have hsum : t = decimalSum a m cin := by rw [ht, hal]; rfl
    rw [hsum]
    exact ⟨addDec_r_toNat a m cin, rfl, rfl, rfl, rfl⟩

/-- The difference `t` of R165 before the correction of the high digit. -/
def digitDifference (a m : Byte) (cin : Bool) : Int :=
  (highDigit a : Int) - highDigit m + adjustLowDifference ((lowDigit a : Int) - lowDigit m + cin.toNat - 1)

theorem subDec_r_toNat (a m : Byte) (cin : Bool) :
    ((subDec a m cin).r.toNat : Int) = adjustHighDifference (digitDifference a m cin) % 256 :=
  (congrArg Nat.cast (BitVec.toNat_ofInt _)).trans (Int.toNat_of_nonneg (Int.emod_nonneg _ (by decide)))

theorem subDec_c (a m : Byte) (cin : Bool) : (subDec a m cin).c = (addBin a (m ^^^ 0xFF#8) cin).c := rfl

/-- The low digit's correction keeps the sign of the difference, so the binary carry is the decimal one too (R165). -/
theorem subDec_c_iff (a m : Byte) (cin : Bool) : (subDec a m cin).c = true ↔ 0 ≤ digitDifference a m cin := by
  rw [subDec_c, addBin_complement_c, decide_eq_true_iff, digitDifference, adjustLowDifference, lowDigit, lowDigit,
    highDigit, highDigit]
  split_ifs <;> omega

/-- On BCD operands the corrected difference shows the decimal difference, digit by digit, a borrow as minus one hundred
(R165). -/
theorem decimalDifference_bcd {x y : Nat} (hx : x < 100) (hy : y < 100) (cin : Bool) :
    adjustHighDifference (digitDifference (bcd x) (bcd y) cin) =
      ((x : Int) - y - (1 - cin.toNat)) / 100 * 256 +
        (((x : Int) - y - (1 - cin.toNat)) % 100 / 10 * 16 + ((x : Int) - y - (1 - cin.toNat)) % 10) := by
  have hcin := cin.toNat_le
  rw [digitDifference, lowDigit_bcd hx, lowDigit_bcd hy, highDigit_bcd hx, highDigit_bcd hy, adjustLowDifference,
    adjustHighDifference]
  split_ifs <;> omega

theorem subDec_bcd {x y : Nat} (hx : x < 100) (hy : y < 100) (cin : Bool) :
    (subDec (bcd x) (bcd y) cin).r = bcd (((x : Int) - y - (1 - cin.toNat)) % 100).toNat ∧
      (subDec (bcd x) (bcd y) cin).c = decide (0 ≤ (x : Int) - y - (1 - cin.toNat)) := by
  constructor
  · apply BitVec.eq_of_toNat_eq
    rw [← Nat.cast_inj (R := Int), subDec_r_toNat, decimalDifference_bcd hx hy, bcd_toNat (by omega)]
    omega
  · have hcin := cin.toNat_le
    rw [subDec_c, addBin_complement_c, bcd_toNat hx, bcd_toNat hy, decide_eq_decide]
    omega

/-- Settles O32: the procedure by the masks, decimal subtraction by the digits, the corner cases by evaluation. -/
theorem decimalSubtractionFollowsTheProcedure : Obligations.DecimalSubtractionFollowsTheProcedure := by
  refine ⟨?procedure, fun x y cin hx hy => subDec_bcd hx hy cin, by decide⟩
  case procedure =>
    intro a m cin al0 al t0 t hal0 hal ht0 ht
    simp only [and_0F_toNat, and_F0_toNat] at hal0 ht0
    have hdigits : t0 = digitDifference a m cin := by rw [ht0, hal, hal0]; rfl
    have hdifference : t = adjustHighDifference (digitDifference a m cin) := by rw [ht, hdigits]; rfl
    rw [hdigits, hdifference]
    exact ⟨subDec_r_toNat a m cin, rfl, subDec_c_iff a m cin, rfl, rfl, rfl⟩

end Sys2Proof.Machine

/-! PROOF of O34 (44_shift_rotate.md R170 to R174): the shifts and rotates as numbers, and one law for the read-modify-write
they share, in the accumulator and in memory. -/

namespace Sys2Proof.Machine

/-- A flag put at a position where a byte has bit 0 is added to it (R173, R174). -/
theorem or_flagAt_eq_add {x : Byte} {k : Nat} (hx : x.getLsbD k = false) (c : Bool) :
    x ||| flagAt c k = x + flagAt c k := by
  have hdisjoint : x &&& flagAt c k = 0#8 := by
    cases c with
    | false => exact BitVec.and_zero
    | true => exact (BitVec.and_twoPow x k).trans (if_neg (by simp [hx]))
  exact (BitVec.add_eq_or_of_and_eq_zero x _ hdisjoint).symm

/-- A shift left doubles modulo 256 (R171). -/
theorem shiftLeft_one_eq (v : Byte) : v <<< 1 = BitVec.ofNat 8 (2 * v.toNat) := by
  bv_omega

/-- A shift right halves (R172). -/
theorem shiftRight_one_eq (v : Byte) : v >>> 1 = BitVec.ofNat 8 (v.toNat / 2) := by
  bv_omega

/-- A rotate left doubles and adds the prior carry, modulo 256 (R173). -/
theorem rotateLeft_byte_eq (v : Byte) (c : Bool) :
    (v <<< 1) ||| flagAt c 0 = BitVec.ofNat 8 (2 * v.toNat + c.toNat) := by
  have hflag : flagAt c 0 = BitVec.ofNat 8 c.toNat := by cases c <;> rfl
  rw [or_flagAt_eq_add (by simp), shiftLeft_one_eq, hflag, BitVec.ofNat_add]

/-- A rotate right halves and adds the prior carry as 128 (R174). -/
theorem rotateRight_byte_eq (v : Byte) (c : Bool) :
    (v >>> 1) ||| flagAt c 7 = BitVec.ofNat 8 (v.toNat / 2 + 128 * c.toNat) := by
  have hflag : flagAt c 7 = BitVec.ofNat 8 (128 * c.toNat) := by cases c <;> rfl
  rw [or_flagAt_eq_add (by simp), shiftRight_one_eq, hflag, BitVec.ofNat_add]

/-- The modifier of each shift and rotate (R171 to R174). -/
def shiftModifiers : List (Operation × Modifier) :=
  [(.asl, shiftLeft), (.lsr, shiftRight), (.rol, rotateLeft), (.ror, rotateRight)]

/-- The only meaning of ASL, LSR, ROL and ROR is the read-modify-write with their modifier; every other meaning names other
operations. -/
theorem Meaning.eq_shift {i : Instr} {f : State → State} {g : Modifier} (h : Meaning i f)
    (op : (i.operation, g) ∈ shiftModifiers) : ∃ pl : Place, i.operand = pl.operand ∧ f = readModifyWrite g pl := by
  cases h with
  | shift k pl operand names =>
    have hk : (i.operation, k) ∈ shiftModifiers := by simpa [shiftModifiers] using names
    obtain rfl : k = g := snd_eq_of_pair_mem (by decide) hk op
    exact ⟨pl, operand, rfl⟩
  | _ => grind [conditionOf, shiftModifiers]

/-- An operation whose modifier is a shift to the byte `result`, moving the bit `out` into C, has that effect on A and on
memory (R170). -/
theorem shiftEffect_of_shifted {op : Operation} {g : Modifier} {result : Byte → Bool → Byte} {out : Byte → Bool}
    (listed : (op, g) ∈ shiftModifiers) (hg : ∀ v p, g v p = shifted (result v p.c) (out v) p) :
    ShiftEffect op result out := by
  rintro i s rfl
  obtain ⟨f, hf, hexec⟩ := exec_meaning i
  obtain ⟨pl, operand, rfl⟩ := hf.eq_shift listed
  cases pl with
  | acc =>
    refine .inl ⟨operand, ?_⟩
    rw [hexec, readModifyWrite_acc, hg]
    rfl
  | mem m =>
    refine .inr ⟨m, operand, ?_⟩
    rw [hexec, readModifyWrite_mem, hg, afterOperand_eq]
    rfl

/-- Settles O34: the encodings are rows of R86, and each modifier is a shift to the byte its rule gives as a number. -/
theorem shiftsAndRotatesByOneBit : Obligations.ShiftsAndRotatesByOneBit := by
  refine ⟨hasEncodings .asl, hasEncodings .lsr, hasEncodings .rol, hasEncodings .ror, ?asl, ?lsr, ?rol, ?ror⟩
  case asl =>
    exact shiftEffect_of_shifted (g := shiftLeft) (by simp [shiftModifiers])
      fun v p => congrArg (shifted · (v.getLsbD 7) p) (shiftLeft_one_eq v)
  case lsr =>
    exact shiftEffect_of_shifted (g := shiftRight) (by simp [shiftModifiers])
      fun v p => congrArg (shifted · (v.getLsbD 0) p) (shiftRight_one_eq v)
  case rol =>
    exact shiftEffect_of_shifted (g := rotateLeft) (by simp [shiftModifiers])
      fun v p => congrArg (shifted · (v.getLsbD 7) p) (rotateLeft_byte_eq v p.c)
  case ror =>
    exact shiftEffect_of_shifted (g := rotateRight) (by simp [shiftModifiers])
      fun v p => congrArg (shifted · (v.getLsbD 0) p) (rotateRight_byte_eq v p.c)

end Sys2Proof.Machine

/-! PROOF of O35 (45_compare.md R180 to R183): CMP, CPX and CPY are found among the meanings by their operation and register, and
the flags of the shared comparison are read as numbers. -/

namespace Sys2Proof.Machine

/-- The difference of two bytes is that of their numbers, modulo 256 (R180). -/
theorem sub_eq_ofInt (a m : Byte) : a - m = BitVec.ofInt 8 ((a.toNat : Int) - m.toNat) := by
  apply BitVec.eq_of_toNat_eq
  rw [BitVec.toNat_sub, BitVec.toNat_ofInt]
  omega

/-- The flags of a comparison: C the order of the numbers, Z equality, N bit 7 of the difference of the numbers (R180). -/
theorem compareFlags_eq (reg m : Byte) (p : Status) :
    compareFlags reg m p =
      { p with
        c := decide (m.toNat ≤ reg.toNat)
        z := decide (reg = m)
        n := (BitVec.ofInt 8 ((reg.toNat : Int) - m.toNat)).getLsbD 7 } := by
  rw [compareFlags, sub_eq_ofInt, beq_eq_decide]

/-- The register of each compare (R181 to R183). -/
def comparedRegisters : List (Operation × Reg) := [(.cmp, .a), (.cpx, .x), (.cpy, .y)]

/-- The only meaning of CMP, CPX and CPY is the comparison of their register; every other meaning names other operations. -/
theorem Meaning.eq_compareRegister {i : Instr} {f : State → State} {r : Reg} (h : Meaning i f)
    (op : (i.operation, r) ∈ comparedRegisters) : ∃ src : Source, i.operand = src.operand ∧ f = compareRegister r src := by
  cases h with
  | compare q src names operand =>
    obtain rfl : q = r := snd_eq_of_pair_mem (by decide) names op
    exact ⟨src, operand, rfl⟩
  | _ => grind [conditionOf, comparedRegisters]

/-- A compare completes in every format: C, Z and N from its register and the operand byte, nothing else but the operand's
reads (R180). -/
theorem exec_compare {i : Instr} {r : Reg} (op : (i.operation, r) ∈ comparedRegisters) (s : State) :
    ∃ src : Source, i.operand = src.operand ∧
      exec i s = .next
        { afterOperand src s with
          p :=
            { s.p with
              c := decide ((operandByte src s).toNat ≤ (s.reg r).toNat)
              z := decide (s.reg r = operandByte src s)
              n := (BitVec.ofInt 8 (((s.reg r).toNat : Int) - (operandByte src s).toNat)).getLsbD 7 } } := by
  obtain ⟨f, hf, hexec⟩ := exec_meaning i
  obtain ⟨src, operand, rfl⟩ := hf.eq_compareRegister op
  refine ⟨src, operand, ?_⟩
  rw [hexec, compareRegister_eq, compareFlags_eq]
  rfl

/-- Settles O35: the encodings are rows of R86, and the effect is that of a compare, register by register. -/
theorem comparesSetCarryZeroNegative : Obligations.ComparesSetCarryZeroNegative := by
  refine ⟨hasEncodings .cmp, hasEncodings .cpx, hasEncodings .cpy, ?cmp, ?cpx, ?cpy⟩
  case cmp => exact fun i s op => exec_compare (r := .a) (by simp [op, comparedRegisters]) s
  case cpx => exact fun i s op => exec_compare (r := .x) (by simp [op, comparedRegisters]) s
  case cpy => exact fun i s op => exec_compare (r := .y) (by simp [op, comparedRegisters]) s

end Sys2Proof.Machine

/-! PROOF of O36 (46_branch.md R190 to R198): each branch is the shared conditional branch on its row of the table of R190. -/

namespace Sys2Proof.Machine

/-- The rows of R190 that test a flag for 0: the condition negates its flag. -/
theorem Condition.holds_of_clear_iff (p : Status) :
    (Condition.carryClear.holds p ↔ p.c = false) ∧ (Condition.zeroClear.holds p ↔ p.z = false) ∧
      (Condition.negativeClear.holds p ↔ p.n = false) ∧ (Condition.overflowClear.holds p ↔ p.v = false) := by
  simp [Condition.holds]

/-- An instruction that means a branch completes: PC moves by the displacement exactly when the condition's test of its flag
succeeds, and nothing else changes (R190, R114). -/
theorem exec_branch {i : Instr} {c : Condition} {d : Byte} {s : State} {taken : Prop} [Decidable taken]
    (hexec : exec i s = .next (branchIf c d s)) (htaken : c.holds s.p ↔ taken) :
    exec i s = .next { s with pc := if taken then s.pc + d.signExtend 16 else s.pc } := by
  rw [hexec, branchIf_eq, if_congr htaken rfl rfl]
  rfl

/-- Settles O36: the encodings are rows of R86, and each branch is the shared one on the test of its flag. -/
theorem branchesTestTheirFlag : Obligations.BranchesTestTheirFlag := by
  refine ⟨hasEncodings .bcc, hasEncodings .bcs, hasEncodings .beq, hasEncodings .bne, hasEncodings .bmi, hasEncodings .bpl,
    hasEncodings .bvc, hasEncodings .bvs, fun d s => ?_⟩
  obtain ⟨carryClear, zeroClear, negativeClear, overflowClear⟩ := Condition.holds_of_clear_iff s.p
  refine ⟨?bcc, ?bcs, ?beq, ?bne, ?bmi, ?bpl, ?bvc, ?bvs⟩
  case bcc => exact exec_branch rfl carryClear
  case bcs => exact exec_branch (c := .carrySet) rfl Iff.rfl
  case beq => exact exec_branch (c := .zeroSet) rfl Iff.rfl
  case bne => exact exec_branch rfl zeroClear
  case bmi => exact exec_branch (c := .negativeSet) rfl Iff.rfl
  case bpl => exact exec_branch rfl negativeClear
  case bvc => exact exec_branch rfl overflowClear
  case bvs => exact exec_branch (c := .overflowSet) rfl Iff.rfl

end Sys2Proof.Machine

/-! PROOF of O37 (47_jump_subroutine.md R200): JMP is its resolver's address, and the pointer's bytes are the pair of reads that
the resolver makes. -/

namespace Sys2Proof.Machine

/-- Settles O37: each form is the shared jump; the direct one reads nothing and the indirect one its pointer. -/
theorem jmpSetsPcToTheResolvedAddress : Obligations.JmpSetsPcToTheResolvedAddress := by
  refine ⟨hasEncodings .jmp, fun w s => rfl, fun p s => ?ind⟩
  case ind =>
    obtain ⟨lo, hi, reads, value⟩ := portReads_of_readPair p (nextInPage p) s
    have jumps : exec (.jmpInd p) s = .next (jumpTo (.ind p) s) := rfl
    refine ⟨lo, hi, _, reads, ?_⟩
    rw [jumps, jumpTo_eq, resolve, value]
    rfl

end Sys2Proof.Machine

/-! PROOF of O38 and O39 (47_jump_subroutine.md R201, R202): two pushes are two writes of the port and two pulls are two reads
of it, S moved by 2. -/

namespace Sys2Proof.Machine

theorem exec_jsr (w : Word) (s : State) : exec (.jsr w) s = .next (jumpToSubroutine w s) := rfl

theorem exec_rts (s : State) : exec .rts s = .next (returnFromSubroutine s) := rfl

/-- Two pushes write down the stack, and S ends 2 lower (R210). -/
theorem push8_push8_port (v w : Byte) (s : State) :
    push8 w (push8 v s) =
      { withPort s (portWrites [(stackAddress s.sp, v), (stackAddress (s.sp - 1#8), w)] s) with sp := s.sp - 2#8 } := by
  have hsp : s.sp - 1#8 - 1#8 = s.sp - 2#8 := by bv_omega
  rw [← hsp]
  rfl

/-- A pull is a read one above S, and S moves there (R211). -/
theorem pull8_port (s : State) :
    pull8 s =
      (answer (stackAddress (s.sp + 1#8)) s, (busRead (stackAddress (s.sp + 1#8)) s).2.setReg .sp (s.sp + 1#8)) :=
  Prod.ext (pull8_value s) (busRead_setReg ..)

/-- Two pulls read up the stack, and S ends 2 higher (R211). -/
theorem pull8_pull8_port (s : State) :
    ∃ v w t, portReads [stackAddress (s.sp + 1#8), stackAddress (s.sp + 2#8)] s = ([v, w], t) ∧
      (pull8 s).1 = v ∧ pull8 (pull8 s).2 = (w, { withPort s t with sp := s.sp + 2#8 }) := by
  have hsp : s.sp + 1#8 + 1#8 = s.sp + 2#8 := by bv_omega
  refine ⟨_, _, _, rfl, pull8_value s, ?_⟩
  rw [pull8_port (pull8 s).2, pull8_sp, hsp, pull8_port s, answer_setReg, busRead_setReg]
  refine Prod.ext rfl ?_
  apply State.ext_fields <;> simp [portReads]

/-- Settles O38: JSR is the two pushes of the return address, with PC set to the operand. -/
theorem jsrPushesItsLastByteAddress : Obligations.JsrPushesItsLastByteAddress := by
  refine ⟨hasEncodings .jsr, fun w s => ?_⟩
  rw [exec_jsr, jumpToSubroutine_eq, push8_push8_port]
  rfl

/-- Settles O39: RTS is two pulls, with PC set to the word after the one pulled. -/
theorem rtsPullsAndAddsOne : Obligations.RtsPullsAndAddsOne := by
  refine ⟨hasEncodings .rts, fun s => ?_⟩
  obtain ⟨lo, hi, t, reads, low, high⟩ := pull8_pull8_port s
  refine ⟨lo, hi, t, reads, ?_⟩
  rw [exec_rts, returnFromSubroutine_eq, low, high]
  rfl

end Sys2Proof.Machine

/-! PROOF of O40 (47_jump_subroutine.md R201, R202): plain RAM holds both bytes of the return address where JSR pushed them, and
RTS reads both from there. -/

namespace Sys2Proof.Machine

/-- After two pushes into plain RAM memory holds the first byte where S pointed and the second one below it: the two addresses
differ, at the wrap of the stack too (R22, R210). -/
theorem peek_push8_push8 {s : State} (hram : PlainRam s) (hm : Memory.wf s.mem = true) (v w : Byte) :
    peek (push8 w (push8 v s)) (stackAddress s.sp) = v ∧ peek (push8 w (push8 v s)) (stackAddress (s.sp - 1#8)) = w := by
  have hram' : PlainRam (push8 v s) := hram.of_subset (accesses_push8 v s).responses_subset
  have hne : stackAddress s.sp ≠ stackAddress (s.sp - 1#8) := fun h => by
    have := stackAddress_injective h
    bv_omega
  refine ⟨?first, ?second⟩
  case first => rw [peek_push8_other (hram'.leaves _) hne, peek_push8_same hram hm]
  case second => exact peek_push8_same hram' (wf_push8 hm v) w

/-- From plain RAM RTS takes the bytes that memory holds at the two addresses above S (R202). -/
theorem returnFromSubroutine_pc_of_plainRam {s : State} (hram : PlainRam s) :
    (returnFromSubroutine s).pc =
      joinBytes (peek s (stackAddress (s.sp + 1#8 + 1#8))) (peek s (stackAddress (s.sp + 1#8))) + 1 := by
  have hpull := accesses_pull8 s
  have hram' : PlainRam (pull8 s).2 := hram.of_subset hpull.responses_subset
  have hpeek (a : Word) : peek (pull8 s).2 a = peek s a := hpull.peek (hram.leaves a) (by simp [readsAt])
  rw [returnFromSubroutine_eq, State.setPc_pc, pull8_value, pull8_value, hram.answer, hram'.answer, hpeek, pull8_sp]

/-- RTS undoes JSR: from any state with the memory, the responses and the S that JSR left, it goes to the address after the
JSR and restores S (R201, R202). -/
theorem returnFromSubroutine_of_jumpToSubroutine {s r : State} {w : Word} (hram : PlainRam s) (hm : Memory.wf s.mem = true)
    (mem : r.mem = (jumpToSubroutine w s).mem) (responses : r.responses = (jumpToSubroutine w s).responses)
    (sp : r.sp = (jumpToSubroutine w s).sp) : (returnFromSubroutine r).pc = s.pc ∧ (returnFromSubroutine r).sp = s.sp := by
  have hramReturn : PlainRam r := by
    refine hram.of_subset ?_
    rw [responses]
    exact (accesses_jumpToSubroutine w s).responses_subset
  rw [jumpToSubroutine_eq, State.setPc_mem] at mem
  rw [jumpToSubroutine_eq, State.setPc_sp, push8_sp, push8_sp] at sp
  obtain ⟨high, low⟩ := peek_push8_push8 hram hm (highByte (s.pc - 1)) (lowByte (s.pc - 1))
  refine ⟨?pc, ?sp⟩
  case pc =>
    rw [returnFromSubroutine_pc_of_plainRam hramReturn, peek_congr mem, peek_congr mem, sp, sub_add_cancel, sub_add_cancel,
      high, low, joinBytes_high_low, sub_add_cancel]
  case sp => rw [returnFromSubroutine_eq, State.setPc_sp, pull8_sp, pull8_sp, sp, sub_add_cancel, sub_add_cancel]

/-- Settles O40: the RTS has from the JSR all that a return depends on. -/
theorem jsrThenRtsReturnsAfterTheCall : Obligations.JsrThenRtsReturnsAfterTheCall := by
  intro s t u w pc' a x y p hinv hram calls returns
  rw [exec_jsr, Host.Outcome.next.injEq] at calls
  rw [exec_rts, Host.Outcome.next.injEq] at returns
  subst calls returns
  exact returnFromSubroutine_of_jumpToSubroutine (w := w) hram hinv rfl rfl rfl

end Sys2Proof.Machine

/-! PROOF of O14 and O15 (70_reset_and_hazards.md R273, 60_exceptions.md R242): the reset state is initial, and canonical memory
is kept along every run of a host that steps on. -/

namespace Sys2Proof.Machine

/-- Stepping on is a step, completed or faulting (R242). -/
theorem step_of_stepOn {s t : State} (h : stepOn s = some t) :
    step s = .next t ∨ ∃ b, step s = .fault (.invalidOpcode b t) := by
  unfold stepOn at h
  split at h
  case h_1 u hstep => exact .inl (Option.some.inj h ▸ hstep)
  case h_2 b u hstep => exact .inr ⟨b, Option.some.inj h ▸ hstep⟩
  case h_3 => cases h

/-- Canonical memory is kept along every run, stepping on after faults (R50, R242). -/
theorem inv_of_reachable {s t : State} (hs : s.Inv) (h : Reachable s t) : t.Inv := by
  induction h with
  | start => exact hs
  | step _ hstep ih => exact inv_of_step ih (step_of_stepOn hstep)

/-- Settles O15: an initial state has canonical memory, and so has every state it reaches. -/
theorem reachableStatesAreCanonical : Obligations.ReachableStatesAreCanonical := by
  intro s t hinitial hreachable
  obtain ⟨-, -, hwf⟩ := hinitial
  exact inv_of_reachable hwf hreachable

/-- Settles O14: nothing is listed in the memory of the reset state, so both bytes of its vector read as unlisted ones. -/
theorem resetStateIsInitial : Obligations.ResetStateIsInitial :=
  ⟨Memory.wf_reset, rfl, rfl, Memory.wf_reset⟩

end Sys2Proof.Machine

/-! PROOF of O41 and O42 (48_stack.md R210 to R215): a push is a write where S points and a pull is a read one above it; the
pushed image of P as a number. -/

namespace Sys2Proof.Machine

/-- One less modulo 256 (R9). -/
theorem ofNat_add_255 (v : Byte) : BitVec.ofNat 8 (v.toNat + 255) = v - 1#8 := by
  bv_omega

/-- A push changes S and the memory port alone (R210). -/
theorem push8_port (v : Byte) (s : State) :
    push8 v s = { withPort s (busWrite (stackAddress s.sp) v s) with sp := s.sp - 1#8 } := rfl

/-- Over plain RAM a pull gives the byte that was pushed last, and S is as before the push (R211). -/
theorem pull8_push8 {s : State} (hram : PlainRam s) (hm : Memory.wf s.mem = true) (v : Byte) :
    (pull8 (push8 v s)).1 = v ∧ (pull8 (push8 v s)).2.sp = s.sp := by
  have hram' : PlainRam (push8 v s) := hram.of_subset (accesses_push8 v s).responses_subset
  have hsp : (push8 v s).sp + 1#8 = s.sp := by rw [push8_sp, sub_add_cancel]
  refine ⟨?value, ?sp⟩
  case value => rw [pull8_value, hram'.answer, hsp, peek_push8_same hram hm]
  case sp => rw [pull8_sp, hsp]

/-- Settles O41: the address as a number, each primitive as one access of the port, and the pull of a pushed byte. -/
theorem pushAndPullPrimitives : Obligations.PushAndPullPrimitives := by
  refine ⟨stackAddress_toNat, fun v s => ?push, fun s n hn => ?pull, fun v s hinv hram => pull8_push8 hram hinv v⟩
  case push => rw [push8_port, ofNat_add_255]
  case pull =>
    obtain rfl : n = s.sp + 1#8 := BitVec.eq_of_toNat_eq (by rw [hn, BitVec.toNat_add]; rfl)
    rw [pull8_port]
    rfl

/-- The image of P as a number: bit 5 is 1 and bit 4 is the push's own (R27, R28). -/
theorem statusByte_toNat (brk : Bool) (p : Status) :
    (statusByte brk p).toNat =
      128 * p.n.toNat + 64 * p.v.toNat + 32 + 16 * brk.toNat + 8 * p.d.toNat + 4 * p.i.toNat + 2 * p.z.toNat + p.c.toNat := by
  rcases p with ⟨n, v, b, d, i, z, c⟩
  revert brk n v b d i z c
  decide

theorem exec_php (s : State) : exec .php s = .next (push8 (statusByte true s.p) s) := rfl

theorem exec_pla (s : State) :
    exec .pla s = .next (((pull8 s).2.setReg .a (pull8 s).1).setP (setNZ (pull8 s).1 s.p)) := rfl

theorem exec_plp (s : State) : exec .plp s = .next ((pull8 s).2.setP (statusOfByte (pull8 s).1)) := rfl

/-- Settles O42: the encodings are rows of R86, and each instruction is its primitive, with the flags it sets. -/
theorem stackInstructions : Obligations.StackInstructions := by
  refine ⟨hasEncodings .pha, hasEncodings .php, hasEncodings .pla, hasEncodings .plp, fun s => rfl, ?php, ?pla, ?plp⟩
  case php =>
    intro s v hv
    have himage : BitVec.ofNat 8 (statusByte true s.p).toNat = statusByte true s.p := by simp
    rw [statusByte_toNat] at himage
    rw [exec_php, push8_port, hv.trans himage]
  case pla =>
    intro s
    refine ⟨_, _, rfl, ?_⟩
    rw [exec_pla, pull8_port]
    rfl
  case plp =>
    intro s
    refine ⟨_, _, rfl, ?_⟩
    rw [exec_plp, pull8_port]
    rfl

end Sys2Proof.Machine

/-! PROOF of O43, O44 and O45 (49_system_flags.md R220 to R229): BRK is the shared entry, RTI the shared return, and a flag
instruction one write of P. -/

namespace Sys2Proof.Machine

/-- An entry, with the two answers to its vector reads named (R220, R248). -/
theorem takeInterrupt_reads (brk : Bool) (ret vector : Word) (s : State) :
    ∃ lo hi t, portReads [vector, vector + 1] (portWrites (frameBytes brk ret s) s) = ([lo, hi], t) ∧
      takeInterrupt brk ret vector s =
        { withPort s t with sp := s.sp - 3#8, p := { s.p with i := true }, pc := joinBytes hi lo } :=
  ⟨_, _, _, rfl, takeInterrupt_port brk ret vector s⟩

theorem exec_brk (s : State) : exec .brk s = .next (takeInterrupt true (s.pc + 1) Config.irqVector s) := rfl

theorem exec_rti (s : State) : exec .rti s = .next (returnFromInterrupt s) := rfl

/-- Settles O43: BRK is the entry with bit 4 set, through the vector of IRQ. -/
theorem brkPushesSetsIAndVectors : Obligations.BrkPushesSetsIAndVectors := by
  refine ⟨hasEncodings .brk, fun s => ?_⟩
  obtain ⟨lo, hi, t, reads, enters⟩ := takeInterrupt_reads true (s.pc + 1) Config.irqVector s
  exact ⟨lo, hi, t, reads, by rw [exec_brk, enters]⟩

/-- Settles O44: RTI is the return, three reads up the stack. -/
theorem rtiRestoresFlagsAndPc : Obligations.RtiRestoresFlagsAndPc := by
  refine ⟨hasEncodings .rti, fun s => ?_⟩
  obtain ⟨v, lo, hi, t, reads, returns⟩ := returnFromInterrupt_eq s
  refine ⟨v, lo, hi, t, reads, ?_⟩
  rw [exec_rti, returns]
  rfl

/-- Settles O45: the encodings are rows of R86, and each instruction is its definition. -/
theorem flagInstructionsChangeOneFlag : Obligations.FlagInstructionsChangeOneFlag :=
  ⟨hasEncodings .clc, hasEncodings .cld, hasEncodings .cli, hasEncodings .clv, hasEncodings .sec, hasEncodings .sed,
    hasEncodings .sei, hasEncodings .nop, fun _ => ⟨rfl, rfl, rfl, rfl, rfl, rfl, rfl, rfl⟩⟩

end Sys2Proof.Machine

/-! PROOF of O7, O8 and O9 (60_exceptions.md R245, R248, R249, 70_reset_and_hazards.md R270): the inputs choose the kind of
transition, and the two kinds that run no instruction are the accesses of their sequence. -/

namespace Sys2Proof.Machine

section
variable {b : Boundary} {iFlag : Bool}

theorem chooseTransition_reset (reset : b.reset = true) : chooseTransition b iFlag = .reset := by
  simp [chooseTransition, reset]

theorem chooseTransition_nmi (reset : b.reset = false) (nmi : b.nmi = true) : chooseTransition b iFlag = .nmi := by
  simp [chooseTransition, reset, nmi]

theorem chooseTransition_irq (reset : b.reset = false) (nmi : b.nmi = false) (irq : b.irq = true) (unmasked : iFlag = false) :
    chooseTransition b iFlag = .irq := by
  simp [chooseTransition, reset, nmi, irq, unmasked]

theorem chooseTransition_instruction (reset : b.reset = false) (nmi : b.nmi = false) (irq : b.irq = false ∨ iFlag = true) :
    chooseTransition b iFlag = .instruction := by
  obtain irq | masked := irq
  · simp [chooseTransition, reset, nmi, irq]
  · simp [chooseTransition, reset, nmi, masked]

end

/-- Settles O7: the inputs choose the kind, and the kind the transition. -/
theorem boundaryChoosesOneTransition : Obligations.BoundaryChoosesOneTransition := by
  refine fun s => ⟨fun reset => ?_, fun reset nmi => ?_, fun reset nmi irq unmasked => ?_, fun reset nmi irq => ?_⟩
  · exact step_of_reset (chooseTransition_reset reset)
  · exact step_of_nmi (chooseTransition_nmi reset nmi)
  · exact step_of_irq (chooseTransition_irq reset nmi irq unmasked)
  · exact step_of_instruction (chooseTransition_instruction reset nmi irq)

/-- The RESET transition reads the vector, low byte first, and changes I, PC and its report besides (R270). -/
theorem resetTransition_reads (s : State) :
    ∃ lo hi t, portReads [Config.resetVector, Config.resetVector + 1] s = ([lo, hi], t) ∧
      resetTransition s =
        { withPort s t with
          p := { s.p with i := true }, pc := joinBytes hi lo, cycles := some s.cycleTable.resetSequence } := by
  refine ⟨_, _, _, rfl, ?_⟩
  rw [resetTransition, resetSequence_eq, loadVector_eq]
  apply State.ext_fields <;> simp [portReads]

/-- Settles O8: with reset presented the step is the RESET transition. -/
theorem resetTransitionSetsIAndLoadsPc : Obligations.ResetTransitionSetsIAndLoadsPc := by
  intro s reset
  obtain ⟨lo, hi, t, reads, enters⟩ := resetTransition_reads (beginTransition s)
  exact ⟨lo, hi, t, reads, by rw [step_of_reset (chooseTransition_reset reset), enters]; rfl⟩

/-- An entry is its three writes and its two vector reads, and changes S, I, PC and its report besides (R248, R249). -/
theorem interruptTransition_reads (vector : Word) (s : State) :
    ∃ lo hi t, portReads [vector, vector + 1] (portWrites (frameBytes false s.pc s) s) = ([lo, hi], t) ∧
      interruptTransition vector s =
        { withPort s t with
          sp := s.sp - 3#8
          p := { s.p with i := true }
          pc := joinBytes hi lo
          cycles := some s.cycleTable.interruptEntry } := by
  obtain ⟨lo, hi, t, reads, enters⟩ := takeInterrupt_reads false s.pc vector s
  refine ⟨lo, hi, t, reads, ?_⟩
  rw [interruptTransition, enters]
  rfl

/-- Settles O9: either entry is the interrupt transition of its vector. -/
theorem interruptEntryPushesAndVectors : Obligations.InterruptEntryPushesAndVectors := by
  intro s vector hselected
  have hstep : step s = .next (interruptTransition vector (beginTransition s)) := by
    obtain ⟨hkind, rfl⟩ | ⟨hkind, rfl⟩ := hselected
    · exact step_of_nmi hkind
    · exact step_of_irq hkind
  obtain ⟨lo, hi, t, reads, enters⟩ := interruptTransition_reads vector (beginTransition s)
  refine ⟨lo, hi, t, reads, ?_⟩
  rw [hstep, enters]
  rfl

end Sys2Proof.Machine

/-! PROOF of O10, O11 and O12 (60_exceptions.md R240 to R242): a byte with an entry completes, and the fault for any other byte
leaves the state after the one fetch. -/

namespace Sys2Proof.Machine

/-- The state after one fetch: PC one further, and the memory port after one read at PC (R10). -/
theorem fetch8_port (s : State) : (fetch8 s).2 = { withPort s (busRead s.pc s).2 with pc := s.pc + 1 } := rfl

/-- Settles O10: the fault leaves the state after the opcode fetch. -/
theorem invalidOpcodeAdvancesPcOnly : Obligations.InvalidOpcodeAdvancesPcOnly := by
  intro s hruns hundefined
  rw [step_of_undefined hruns (Option.isNone_iff_eq_none.mp hundefined), fetch8_port]
  rfl

/-- A byte with an entry is fetched as an instruction (R92). -/
theorem fetchInstruction_defined {s : State} {t : Template} (h : dispatchTable (answer s.pc s) = some t) :
    ∃ i u, fetchInstruction s = .instr i u := by
  cases t with
  | bare i => exact ⟨_, _, fetchInstruction_bare h⟩
  | byte f => exact ⟨_, _, fetchInstruction_byte h⟩
  | word f => exact ⟨_, _, fetchInstruction_word h⟩

/-- An instruction transition whose opcode byte has an entry completes (R92, R240). -/
theorem runInstruction_completes {s : State} {t : Template} (h : dispatchTable (answer s.pc s) = some t) :
    ∃ u, runInstruction s = .next u := by
  obtain ⟨i, v, hfetched⟩ := fetchInstruction_defined h
  obtain ⟨j, w, u, -, -, hrun⟩ | ⟨b, u, hinvalid, -⟩ := runInstruction_cases s
  · exact ⟨_, hrun⟩
  · rw [hfetched] at hinvalid
    cases hinvalid

/-- Settles O11: RESET and the entries complete, and an instruction does when its opcode byte has an entry. -/
theorem onlyInvalidOpcodeStopsAStep : Obligations.OnlyInvalidOpcodeStopsAStep := by
  intro s
  cases hkind : chooseTransition (currentBoundary s) s.p.i with
  | reset => exact .inl ⟨_, step_of_reset hkind⟩
  | nmi => exact .inl ⟨_, step_of_nmi hkind⟩
  | irq => exact .inl ⟨_, step_of_irq hkind⟩
  | instruction =>
    cases htable : dispatchTable (opcodeByte s) with
    | none => exact .inr ⟨hkind, rfl, _, step_of_undefined hkind htable⟩
    | some t =>
      rw [step_of_instruction hkind]
      exact .inl (runInstruction_completes (s := beginTransition s) htable)

/-- A fault leaves the state after the opcode fetch (R241). -/
theorem left_of_fault {s t : State} {b : Byte} (h : step s = .fault (.invalidOpcode b t)) :
    t = (fetch8 (beginTransition s)).2 := by
  rw [step_of_instruction (runsInstruction_of_fault h)] at h
  obtain ⟨i, u, v, -, -, hrun⟩ | ⟨c, u, hfetch, hrun⟩ := runInstruction_cases (beginTransition s)
  · rw [hrun] at h
    cases h
  · rw [hrun] at h
    cases h
    obtain ⟨-, left⟩ := fetchInstruction_invalid hfetch
    exact left

/-- Settles O12: the next transition starts from the state the fault left, as from any other. -/
theorem hostMayStepOnAfterAFault : Obligations.HostMayStepOnAfterAFault := by
  intro s u b hfault
  refine ⟨?pc, ?stepsOn, step_of_instruction⟩
  case pc =>
    rw [left_of_fault hfault]
    rfl
  case stepsOn => simp only [stepOn, hfault]

end Sys2Proof.Machine

/-! PROOF of O46 (60_exceptions.md R256): plain RAM holds the three bytes of a frame at three different addresses, and the reads
of the vector leave them there. -/

namespace Sys2Proof.Machine

/-- After a frame has been pushed into plain RAM memory holds its bytes down from where S pointed, at the wrap of the stack too
(R210, R256). -/
theorem peek_pushFrame {s : State} (hram : PlainRam s) (hm : Memory.wf s.mem = true) (brk : Bool) (ret : Word) :
    peek (pushFrame brk ret s) (stackAddress s.sp) = highByte ret ∧
      peek (pushFrame brk ret s) (stackAddress (s.sp - 1#8)) = lowByte ret ∧
      peek (pushFrame brk ret s) (stackAddress (s.sp - 2#8)) = statusByte brk s.p := by
  have hpushes := (accesses_push8 (highByte ret) s).trans (accesses_push8 (lowByte ret) (push8 (highByte ret) s))
  obtain ⟨high, low⟩ := peek_push8_push8 hram hm (highByte ret) (lowByte ret)
  have hsp : (push8 (lowByte ret) (push8 (highByte ret) s)).sp = s.sp - 2#8 := by
    rw [push8_sp, push8_sp, sub_sub]
    rfl
  rw [pushFrame]
  generalize push8 (lowByte ret) (push8 (highByte ret) s) = u at hpushes high low hsp ⊢
  have hram' : PlainRam u := hram.of_subset hpushes.responses_subset
  have hother {k : Byte} (hk : k ≠ s.sp - 2#8) :
      peek (push8 (statusByte brk s.p) u) (stackAddress k) = peek u (stackAddress k) :=
    peek_push8_other (hram'.leaves _) (fun h => hk (hsp ▸ stackAddress_injective h)) _
  refine ⟨?high, ?low, ?status⟩
  case high => rw [hother (by bv_omega), high]
  case low => rw [hother (by bv_omega), low]
  case status => rw [← hsp, peek_push8_same hram' (hpushes.wf hm)]

/-- An entry over plain RAM leaves the bytes of its frame in memory, with S three lower (R256). -/
theorem peek_takeInterrupt {s : State} (hram : PlainRam s) (hm : Memory.wf s.mem = true) (brk : Bool) (ret vector : Word) :
    peek (takeInterrupt brk ret vector s) (stackAddress s.sp) = highByte ret ∧
      peek (takeInterrupt brk ret vector s) (stackAddress (s.sp - 1#8)) = lowByte ret ∧
      peek (takeInterrupt brk ret vector s) (stackAddress (s.sp - 2#8)) = statusByte brk s.p ∧
      (takeInterrupt brk ret vector s).sp = s.sp - 3#8 := by
  have hframe : peek (takeInterrupt brk ret vector s) = peek (pushFrame brk ret s) := by
    have hram' : PlainRam ((pushFrame brk ret s).setP { s.p with i := true }) :=
      hram.of_subset (List.Subset.trans (List.tail_subset _) (List.Subset.trans (List.tail_subset _) (List.tail_subset _)))
    rw [takeInterrupt_eq]
    funext a
    exact (accesses_loadVector vector _).peek (hram'.leaves a) (by simp [readsAt])
  obtain ⟨high, low, status⟩ := peek_pushFrame hram hm brk ret
  rw [hframe]
  exact ⟨high, low, status, by rw [takeInterrupt_port]⟩

/-- Settles O46: BRK, IRQ and NMI are entries, and JSR is the first two pushes of one. -/
theorem entryFrameLayout : Obligations.EntryFrameLayout := by
  refine ⟨fun s brk => statusByte_toNat brk s.p, ?brk, ?interrupt, ?jsr⟩
  case brk =>
    rintro s t hinv hram hexec
    obtain rfl := Host.Outcome.next.inj ((exec_brk s).symm.trans hexec)
    exact peek_takeInterrupt hram hinv true (s.pc + 1) Config.irqVector
  case interrupt =>
    rintro s t vector hinv hram - rfl
    exact peek_takeInterrupt hram hinv false s.pc vector
  case jsr =>
    intro s t w hinv hram hexec
    obtain rfl := Host.Outcome.next.inj ((exec_jsr w s).symm.trans hexec)
    obtain ⟨high, low⟩ := peek_push8_push8 hram hinv (highByte (s.pc - 1)) (lowByte (s.pc - 1))
    rw [jumpToSubroutine_eq, peek_setPc, peek_setPc, State.setPc_sp, push8_sp, push8_sp, sub_sub]
    exact ⟨high, low, rfl⟩

end Sys2Proof.Machine

/-! PROOF of O47 (60_exceptions.md R254): RTI reads the frame back from where the entry pushed it. -/

namespace Sys2Proof.Machine

/-- From plain RAM RTI takes S and the flags and PC from the three bytes that memory holds above S (R221). -/
theorem returnFromInterrupt_of_plainRam {s : State} (hram : PlainRam s) :
    (returnFromInterrupt s).sp = s.sp + 3#8 ∧
      (returnFromInterrupt s).p = statusOfByte (peek s (stackAddress (s.sp + 1#8))) ∧
      (returnFromInterrupt s).pc =
        joinBytes (peek s (stackAddress (s.sp + 3#8))) (peek s (stackAddress (s.sp + 2#8))) := by
  obtain ⟨v, lo, hi, t, reads, returns⟩ := returnFromInterrupt_eq s
  have hpulled := portReads_value_of_ram (l := [stackAddress (s.sp + 1#8), stackAddress (s.sp + 2#8), stackAddress (s.sp + 3#8)])
    fun r hr => hram r (List.mem_of_mem_take hr)
  rw [reads] at hpulled
  simp only [List.map_cons, List.map_nil, List.cons.injEq, and_true] at hpulled
  obtain ⟨rfl, rfl, rfl⟩ := hpulled
  rw [returns]
  exact ⟨rfl, rfl, rfl⟩

/-- RTI undoes an entry that pushed bit 4 clear: from any state with the memory, the responses and the S that the entry left,
it goes to the return address and restores S and the flags but B (R221, R248, R254). -/
theorem returnFromInterrupt_of_takeInterrupt {s r : State} {ret vector : Word} (hram : PlainRam s)
    (hm : Memory.wf s.mem = true) (mem : r.mem = (takeInterrupt false ret vector s).mem)
    (responses : r.responses = (takeInterrupt false ret vector s).responses)
    (sp : r.sp = (takeInterrupt false ret vector s).sp) :
    (returnFromInterrupt r).pc = ret ∧ (returnFromInterrupt r).sp = s.sp ∧
      (returnFromInterrupt r).p = { s.p with b := false } := by
  have hramReturn : PlainRam r := by
    refine hram.of_subset ?_
    rw [responses]
    exact (accesses_takeInterrupt false ret vector s).responses_subset
  obtain ⟨high, low, status, hsp⟩ := peek_takeInterrupt hram hm false ret vector
  obtain ⟨spReturn, pReturn, pcReturn⟩ := returnFromInterrupt_of_plainRam hramReturn
  have h1 : r.sp + 1#8 = s.sp - 2#8 := by rw [sp, hsp]; bv_omega
  have h2 : r.sp + 2#8 = s.sp - 1#8 := by rw [sp, hsp]; bv_omega
  have h3 : r.sp + 3#8 = s.sp := by rw [sp, hsp, sub_add_cancel]
  refine ⟨?pc, ?sp, ?flags⟩
  case pc => rw [pcReturn, h3, h2, peek_congr mem, peek_congr mem, high, low, joinBytes_high_low]
  case sp => rw [spReturn, h3]
  case flags => rw [pReturn, h1, peek_congr mem, status, statusOfByte_statusByte]

/-- Settles O47: the RTI has from the entry all that a return depends on. -/
theorem rtiUndoesAnInterruptEntry : Obligations.RtiUndoesAnInterruptEntry := by
  intro s t u vector pc' a x y p hinv hram enters returns
  rw [exec_rti, Host.Outcome.next.injEq] at returns
  subst enters returns
  exact returnFromInterrupt_of_takeInterrupt (ret := s.pc) (vector := vector) hram hinv rfl rfl rfl

end Sys2Proof.Machine

/-! PROOF of O56 (70_reset_and_hazards.md R280): the step that runs CLI consumes one boundary and clears I, so the next one is
chosen with I clear. -/

namespace Sys2Proof.Machine

theorem exec_cli (s : State) : exec .cli s = .next (s.setP { s.p with i := false }) := rfl

/-- A step that fetches CLI clears I and completes, with PC one further, and leaves the boundary after its own (R224). -/
theorem step_of_cli {s : State} (hruns : RunsInstruction s) (hop : opcodeByte s = 0x58#8) :
    ∃ t, step s = .next t ∧ t.p = { s.p with i := false } ∧ t.pc = s.pc + 1 ∧ t.sp = s.sp ∧ t.inputs = s.inputs.tail := by
  have hfetch : fetchInstruction (beginTransition s) = .instr .cli (fetch8 (beginTransition s)).2 := by
    refine fetchInstruction_bare ?_
    rw [show answer (beginTransition s).pc (beginTransition s) = 0x58#8 from hop]
    rfl
  rw [step_of_instruction hruns, runInstruction, hfetch]
  simp only [exec_cli, withCycles]
  exact ⟨_, rfl, by simp [fetch8_state]⟩

/-- An entry sets I, and its first access is the push of the high byte of PC where S points (R248). -/
theorem interruptTransition_first (vector : Word) (s : State) (hbus : s.bus = []) :
    (interruptTransition vector s).p.i = true ∧
      (interruptTransition vector s).bus.head? = some (.write (stackAddress s.sp) (highByte s.pc)) := by
  constructor
  · rw [interruptTransition, takeInterrupt_port]
    rfl
  · simp [interruptTransition, takeInterrupt_eq, loadVector_eq, portReads, pushFrame_bus, hbus]

/-- Settles O56: the first step clears I, so irq is taken at the boundary after it. -/
theorem irqIsTakenRightAfterCli : Obligations.IrqIsTakenRightAfterCli := by
  intro s b rest hinputs reset nmi irq hop
  have hruns : RunsInstruction s := by rw [RunsInstruction, currentBoundary, hinputs]; rfl
  obtain ⟨t, hstep, hp, hpc, hsp, hrest⟩ := step_of_cli hruns hop
  have hboundary : currentBoundary t = b := by rw [currentBoundary, hrest, hinputs]; rfl
  have hkind : chooseTransition (currentBoundary t) t.p.i = .irq := by
    rw [hboundary, hp]
    exact chooseTransition_irq reset nmi irq rfl
  obtain ⟨hi, hfirst⟩ := interruptTransition_first Config.irqVector (beginTransition t) rfl
  rw [beginTransition_sp, beginTransition_pc, hsp, hpc] at hfirst
  exact ⟨t, _, hstep, hp, hpc, step_of_irq hkind, rfl, hi, hfirst⟩

end Sys2Proof.Machine

/-! PROOF of O55 (70_reset_and_hazards.md R283, R284): the rows of R284 by operation, which hold the timing of every instruction. -/

namespace Sys2Proof

/-- The rows of R284: the timings an operation's formats have in the default table, with the format of each. -/
def Operation.timings : Operation → List (Format × Timing)
  | .lda | .and | .ora | .eor | .adc | .sbc | .cmp =>
    [(.imm, ⟨2, false⟩), (.zp, ⟨3, false⟩), (.zpx, ⟨4, false⟩), (.abs, ⟨4, false⟩), (.abx, ⟨4, true⟩), (.aby, ⟨4, true⟩),
      (.izx, ⟨6, false⟩), (.izy, ⟨5, true⟩)]
  | .ldx | .ldy =>
    [(.imm, ⟨2, false⟩), (.zp, ⟨3, false⟩), (.zpx, ⟨4, false⟩), (.zpy, ⟨4, false⟩), (.abs, ⟨4, false⟩), (.abx, ⟨4, true⟩),
      (.aby, ⟨4, true⟩)]
  | .cpx | .cpy | .bit => [(.imm, ⟨2, false⟩), (.zp, ⟨3, false⟩), (.abs, ⟨4, false⟩)]
  | .sta | .stx | .sty =>
    [(.zp, ⟨3, false⟩), (.zpx, ⟨4, false⟩), (.zpy, ⟨4, false⟩), (.abs, ⟨4, false⟩), (.abx, ⟨5, false⟩), (.aby, ⟨5, false⟩),
      (.izx, ⟨6, false⟩), (.izy, ⟨6, false⟩)]
  | .asl | .lsr | .rol | .ror | .inc | .dec =>
    [(.acc, ⟨2, false⟩), (.zp, ⟨5, false⟩), (.zpx, ⟨6, false⟩), (.abs, ⟨6, false⟩), (.abx, ⟨7, false⟩)]
  | .clc | .cld | .cli | .clv | .sec | .sed | .sei | .nop | .tax | .tay | .txa | .tya | .tsx | .txs | .inx | .iny | .dex
  | .dey => [(.imp, ⟨2, false⟩)]
  | .bcc | .bcs | .beq | .bne | .bmi | .bpl | .bvc | .bvs => [(.rel, ⟨2, false⟩)]
  | .pha | .php => [(.imp, ⟨3, false⟩)]
  | .pla | .plp => [(.imp, ⟨4, false⟩)]
  | .jmp => [(.abs, ⟨3, false⟩), (.ind, ⟨5, false⟩)]
  | .jsr => [(.abs, ⟨6, false⟩)]
  | .rts | .rti => [(.imp, ⟨6, false⟩)]
  | .brk => [(.imp, ⟨7, false⟩)]

end Sys2Proof

namespace Sys2Proof.Machine

/-- The default table gives every instruction the figures of its row of R284. -/
theorem mem_timings (i : Instr) : (i.format, defaultTiming i) ∈ i.operation.timings := by
  refine List.contains_iff_mem.mp ?_
  cases i <;> rfl

/-- The default table replaces no opcode byte. -/
theorem timingIn_default (i : Instr) : timingIn Config.defaultCycleTable i = defaultTiming i := rfl

/-- The timing of an instruction of these operations is in a row that holds theirs. -/
theorem timing_mem_row {i : Instr} {ops : List Operation} {row : List (Format × Timing)} (h : i.operation ∈ ops)
    (hrow : ∀ op ∈ ops, ∀ e ∈ op.timings, e ∈ row := by decide) :
    (i.format, timingIn Config.defaultCycleTable i) ∈ row :=
  hrow _ h _ (mem_timings i)

/-- The timing of an instruction of these operations is the one their rows agree on. -/
theorem timing_eq {i : Instr} {ops : List Operation} {w : Timing} (h : i.operation ∈ ops)
    (hrow : ∀ op ∈ ops, ∀ e ∈ op.timings, e.2 = w := by decide) : timingIn Config.defaultCycleTable i = w :=
  hrow _ h _ (mem_timings i)

/-- A table with one more entry in front gives that byte its timing and leaves the others (R283). -/
theorem timingIn_replaced (T : CycleTable) (b : Byte) (w : Timing) (i : Instr) :
    timingIn { T with replaced := (b, w) :: T.replaced } i = if i.opcode = b then w else timingIn T i := by
  by_cases h : b = i.opcode
  · simp [timingIn, findTiming, h]
  · simp [timingIn, findTiming, h, Ne.symm h]

/-- Settles O55: each clause is read off the rows of its operations. -/
theorem defaultCycleTableFigures : Obligations.DefaultCycleTableFigures := by
  refine ⟨fun i => ⟨timing_mem_row, timing_mem_row, timing_mem_row, timing_mem_row, timing_mem_row, timing_eq, timing_eq,
    timing_eq, fun h => ?jmp, timing_eq, fun h => ?brk⟩, rfl, rfl, timingIn_replaced⟩
  case jmp => exact timing_mem_row (List.mem_singleton.mpr h)
  case brk => exact timing_eq (List.mem_singleton.mpr h)

end Sys2Proof.Machine

/-! PROOF of O54 (70_reset_and_hazards.md R283, R285): the report of an instruction by whether it is a branch, its bounds from the
rows of R284, and the cycle table along a step. -/

namespace Sys2Proof.Machine

/-- A branch adds one cycle when taken and one more into another page (R285). -/
theorem branchExtra_eq (taken cross : Bool) :
    branchExtra taken cross = if taken then (if cross then 2 else 1) else 0 := by
  cases taken <;> cases cross <;> rfl

/-- The report of a branch (R285). -/
theorem cycleReport_of_branch {i : Instr} {c : Condition} (hc : conditionOf i.operation = some c) (s : State) :
    cycleReport i s = (timingIn s.cycleTable i).base + branchExtra (c.holds s.p) (operandCrosses i.operand s) := by
  simp only [cycleReport, hc]

/-- The report of any other instruction (R283). -/
theorem cycleReport_of_not_branch {i : Instr} (hc : conditionOf i.operation = none) (s : State) :
    cycleReport i s =
      (timingIn s.cycleTable i).base + ((timingIn s.cycleTable i).penalty && operandCrosses i.operand s).toNat := by
  simp only [cycleReport, hc]

/-- Every row of R284 is between 2 and 7, the penalty included. -/
theorem timings_bounds (op : Operation) : ∀ e ∈ op.timings, 2 ≤ e.2.base ∧ e.2.base + e.2.penalty.toNat ≤ 7 := by
  cases op <;> decide

/-- With the default table a report is between 2 and 7 (R284, R285). -/
theorem cycleReport_bounds {i : Instr} {s : State} (htable : s.cycleTable = Config.defaultCycleTable) :
    2 ≤ cycleReport i s ∧ cycleReport i s ≤ 7 := by
  cases hc : conditionOf i.operation with
  | some c =>
    have hbase : (timingIn Config.defaultCycleTable i).base = 2 :=
      congrArg Timing.base (timing_eq (w := ⟨2, false⟩) (operation_of_conditionOf hc))
    rw [cycleReport_of_branch hc, htable, hbase, branchExtra_eq]
    split_ifs <;> omega
  | none =>
    have hbounds : 2 ≤ (defaultTiming i).base ∧ (defaultTiming i).base + (defaultTiming i).penalty.toNat ≤ 7 :=
      timings_bounds i.operation _ (mem_timings i)
    have hpenalty := Bool.toNat_le_toNat (Bool.and_le_left (defaultTiming i).penalty (operandCrosses i.operand s))
    rw [cycleReport_of_not_branch hc, htable, timingIn_default]
    omega

/-- No instruction changes the cycle table (R283). -/
theorem exec_cycleTable {i : Instr} {s t : State} (h : exec i s = .next t) : t.cycleTable = s.cycleTable := by
  obtain ⟨-, -, -, -, -, -, htable⟩ := onlyTheseInstructionsChangeARegister.1 i s t h
  exact htable

@[simp] theorem fetch8_cycleTable (s : State) : (fetch8 s).2.cycleTable = s.cycleTable := rfl

/-- A fetch does not change the cycle table (R283). -/
theorem fetchInstruction_cycleTable (s : State) : (fetchInstruction s).state.cycleTable = s.cycleTable := by
  cases ht : dispatchTable (answer s.pc s) with
  | none => rw [fetchInstruction_undefined ht, Fetched.state, fetch8_cycleTable]
  | some t =>
    cases t with
    | bare i => rw [fetchInstruction_bare ht, Fetched.state, fetch8_cycleTable]
    | byte f => rw [fetchInstruction_byte ht, Fetched.state, fetch8_cycleTable, fetch8_cycleTable]
    | word f => simp [fetchInstruction_word ht, Fetched.state, fetch16_eq]

/-- What a transition that completes reports: a count, between 2 and 7 with the default table, and the table unchanged. -/
def ReportsCycles (s t : State) : Prop :=
  t.cycleTable = s.cycleTable ∧
    ∃ n, t.cycles = some n ∧ (s.cycleTable = Config.defaultCycleTable → 2 ≤ n ∧ n ≤ 7)

theorem reportsCycles_resetTransition (s : State) : ReportsCycles s (resetTransition s) := by
  obtain ⟨lo, hi, t, -, enters⟩ := resetTransition_reads s
  rw [enters]
  exact ⟨rfl, _, rfl, fun htable => by rw [htable]; decide⟩

theorem reportsCycles_interruptTransition (vector : Word) (s : State) :
    ReportsCycles s (interruptTransition vector s) := by
  obtain ⟨lo, hi, t, -, enters⟩ := interruptTransition_reads vector s
  rw [enters]
  exact ⟨rfl, _, rfl, fun htable => by rw [htable]; decide⟩

theorem reportsCycles_of_runInstruction {s t : State} (h : runInstruction s = .next t) : ReportsCycles s t := by
  obtain ⟨i, u, v, hfetch, hexec, hrun⟩ | ⟨b, u, -, hrun⟩ := runInstruction_cases s
  · obtain rfl := Host.Outcome.next.inj (hrun.symm.trans h)
    have hfetched : u.cycleTable = s.cycleTable := by rw [← fetchInstruction_cycleTable s, hfetch]; rfl
    refine ⟨(exec_cycleTable hexec).trans hfetched, cycleReport i u, rfl, fun htable => ?_⟩
    exact cycleReport_bounds (hfetched.trans htable)
  · rw [hrun] at h
    cases h

/-- Every step that completes reports its cycles, by the kind of its transition. -/
theorem reportsCycles_of_step {s t : State} (h : step s = .next t) : ReportsCycles s t := by
  cases hkind : chooseTransition (currentBoundary s) s.p.i with
  | reset =>
    obtain rfl := Host.Outcome.next.inj ((step_of_reset hkind).symm.trans h)
    exact reportsCycles_resetTransition (beginTransition s)
  | nmi =>
    obtain rfl := Host.Outcome.next.inj ((step_of_nmi hkind).symm.trans h)
    exact reportsCycles_interruptTransition _ (beginTransition s)
  | irq =>
    obtain rfl := Host.Outcome.next.inj ((step_of_irq hkind).symm.trans h)
    exact reportsCycles_interruptTransition _ (beginTransition s)
  | instruction =>
    rw [step_of_instruction hkind] at h
    exact reportsCycles_of_runInstruction (s := beginTransition s) h

/-- Settles O54: a completed step reports, a fault leaves the state after one fetch, and the two formulae of a report. -/
theorem everyCompletedStepReportsCycles : Obligations.EveryCompletedStepReportsCycles := by
  refine ⟨fun s t => reportsCycles_of_step, fun s t b hfault => ?fault, fun i s c d hc operand => ?branch,
    fun i s hc => ?other⟩
  case fault =>
    rw [left_of_fault hfault, fetch8_cycleTable, fetch8_state]
    exact ⟨rfl, rfl⟩
  case branch =>
    rw [cycleReport_of_branch hc, branchExtra_eq, operand]
    rfl
  case other =>
    rw [cycleReport_of_not_branch hc]
    cases (timingIn s.cycleTable i).penalty <;> cases operandCrosses i.operand s <;> rfl

end Sys2Proof.Machine
